-- ==== Sys2Proof/Word.lean ====
section
/-! DEFINITION. The numerics record `NUM` of 00_scope.md R7: the carrier `F` is a type parameter here, and every sample,
coefficient, state value and parameter of the block is one value of it. Nothing in the block does arithmetic on `F` except
through the members of this record, and every operation of the machine that computes takes the record as an argument, carrier and all (R6). The record
the machine `exec` and `step` run with is `Config.num` (Config.lean); the reference record over the reals, `NUM_R` of R8, is in
Machine/Reference.lean. -/

namespace Sys2Proof

/-- The record `NUM` (R7): fifteen members, each a total function of its operands alone. -/
structure Numerics (F : Type) where
  /-- a rational literal, rounded once into `F` -/
  lit : Rat → F
  /-- the number pi -/
  PI : F
  /-- the fixed quality factor 1/sqrt(2) -/
  Q : F
  add : F → F → F
  sub : F → F → F
  mul : F → F → F
  div : F → F → F
  neg : F → F
  sqrt : F → F
  /-- sine, argument in radians -/
  sin : F → F
  /-- cosine, argument in radians -/
  cos : F → F
  tanh : F → F
  /-- 10 raised to the power of the operand -/
  pow10 : F → F
  /-- order, used only in preconditions -/
  lt : F → F → Bool
  /-- order, used only in preconditions -/
  le : F → F → Bool
deriving Inhabited

end Sys2Proof
end

