-- ==== Sys2Proof/Config.lean ====
section
/-! DEFINITION. The parameters of the model (00_scope.md R6) and the free values. Each open one is an opaque constant: no proof
can see its value, so a claim holds whatever it is. -/

namespace Sys2Proof.Config

/-- `W` is this constant plus one: the width in bits of one `F` value on a port or in a buffer word (R6, open; log 1). -/
opaque widthMinusOne : Nat

/-- `W` (R6). -/
def W : Nat := widthMinusOne + 1

end Sys2Proof.Config

namespace Sys2Proof

/-- The carrier of the machine `exec` and `step` run: one value of it as it stands on a port, in a register or in a buffer word: `W` bits (R6, R7; log 1). It is
the buffer's unit, moved whole: there is no part of a `Sample` that an access names, so no byte and no byte order (20_memory.md R53). Which
number the bits stand for, and how they are laid out for the host, is the business of `Config.num` and `W` alone (R53). -/
abbrev Sample : Type := BitVec Config.W

/-- `SIDE_FREQ_ASSIGN` (10_state.md R25): which side frequency parameter feeds which side filter. -/
inductive SideFreqAssign where
  | lowerToHp
  | lowerToShelf
deriving DecidableEq, Repr, Inhabited

end Sys2Proof

namespace Sys2Proof.Config

/-- `NUM` (R6, R7, D1, D26), left open: any record at all, and nothing can be proved of it (log 1). -/
opaque num : Numerics Sample

/-- `NMAX` is this constant plus one (R6, open; log 3). -/
opaque nmaxMinusOne : Nat

/-- `NMAX`, the number of frames the sample buffer holds, at least 1 (R6; log 3). -/
def NMAX : Nat := nmaxMinusOne + 1

/-- `SIDE_FREQ_ASSIGN` (R6, R25, open; log 4). -/
opaque sideFreqAssign : SideFreqAssign

/-- The order of the eleven micro-steps `LAT(p)` of the i-th snapshot: the j-th of them copies register `latchOrder i j`
(45_chain_commands.md R154, "the order ... is not fixed"; log 5). -/
opaque latchOrder : Nat → Equiv.Perm (Fin 11)

/-- What a buffer word that nothing has written since power-on holds, by its address, whatever the carrier (20_memory.md R52, "an
unspecified value"; log 6). -/
opaque bufPowerOn {F : Type} [Inhabited F] : Nat → F

/-- `LENW` (R6). -/
abbrev LENW : Nat := 32
/-- `NCH` (R6). -/
abbrev NCH : Nat := 2
/-- `NSTAGE` (R6). -/
abbrev NSTAGE : Nat := 3
/-- `NPARAM` (R6). -/
abbrev NPARAM : Nat := 11

end Sys2Proof.Config
end

