-- ==== Sys2Proof/Syntax.lean ====
section
/-! DEFINITION. The eleven commands of 30_encoding.md R74, one constructor per row of spec/opcode_table.json. The `arg` field
of the word is kept as it stands in the word where the row uses it as an index (R71, R75); which values are legal is
WellFormed.lean's question. The operands `OPA`, `OPB`, `LEN` are not part of the word (R72): they stand on the port. -/

namespace Sys2Proof

/-- A command word's meaning as syntax (R74, R76). -/
inductive Instr where
  /-- `RST`, construction (R151) -/
  | rst
  /-- `SRATE fs` (R152) -/
  | srate
  /-- `WRP p, v`; `p` is `CW[3:0]` (R153) -/
  | wrp (p : BitVec 4)
  /-- `LATCH` (R154) -/
  | latch
  /-- `CLS k`; `k` is `CW[3:0]` (R111) -/
  | cls (k : BitVec 4)
  /-- `CHP` (R121) -/
  | chp
  /-- `BQ k, x`; `k` is `CW[3:0]` (R101) -/
  | bq (k : BitVec 4)
  /-- `ENC l, r` (R131) -/
  | enc
  /-- `DEC m, s` (R133) -/
  | dec
  /-- `SAT x` (R141) -/
  | sat
  /-- `PROC n` (R158) -/
  | proc
deriving DecidableEq, Repr

/-- The two agents (00_scope.md R13). -/
inductive Agent where
  | aud
  | ctl
deriving DecidableEq, Repr

/-- The agent that may issue a command (R74): `CTL` issues `WRP` only, `AUD` everything else. -/
def Instr.agent : Instr → Agent
  | .rst => .aud
  | .srate => .aud
  | .wrp _ => .ctl
  | .latch => .aud
  | .cls _ => .aud
  | .chp => .aud
  | .bq _ => .aud
  | .enc => .aud
  | .dec => .aud
  | .sat => .aud
  | .proc => .aud

end Sys2Proof
end

