-- ==== Sys2Proof/WellFormed.lean ====
section
/-! DEFINITION. The `arg` constraints of 30_encoding.md R75, one check per constrained command. -/

namespace Sys2Proof

/-- `WRP`: "`arg` is the parameter index `p` and must be at most 10" (R75). -/
def paramArgOk (p : BitVec 4) : Bool := decide (p.toNat ≤ 10)

/-- `CLS`: "`arg` is the stage index and must be 0 or 2" (R75). -/
def shelfArgOk (k : BitVec 4) : Bool := k.toNat == 0 || k.toNat == 2

/-- `BQ`: "`arg` is the stage index and must be 0, 1 or 2" (R75). -/
def stageArgOk (k : BitVec 4) : Bool := decide (k.toNat ≤ 2)

/-- A command that some legal word stands for (R75). -/
def WellFormed : Instr → Bool
  | .rst => true
  | .srate => true
  | .wrp p => paramArgOk p
  | .latch => true
  | .cls k => shelfArgOk k
  | .chp => true
  | .bq k => stageArgOk k
  | .enc => true
  | .dec => true
  | .sat => true
  | .proc => true

end Sys2Proof
end

