-- ==== Sys2Proof/Decode.lean ====
section
/-! DEFINITION. The decoder (30_encoding.md R76), total on the 256 words and on any list of words, rejecting by name; the
encoder after it (R74, R82); and the rows of R74 as data. The length of a command is always one 8-bit word (R70, R76). -/

namespace Sys2Proof

/-- The command word `CW`: one unit of 8 bits, with no byte order (R70, 20_memory.md R53). -/
abbrev CommandWord : Type := BitVec 8

/-- Why a word is reserved (R76, R80). -/
inductive DecodeError where
  /-- `op > 0xA` -/
  | reservedOp (op : BitVec 4)
  /-- the `arg` constraint of R75 fails -/
  | reservedArg (op arg : BitVec 4)
  /-- there is no word to decode -/
  | noWord
deriving DecidableEq, Repr

/-- `op = CW[7:4]` (R71). -/
def opField (w : CommandWord) : BitVec 4 := w.extractLsb' 4 4

/-- `arg = CW[3:0]` (R71). -/
def argField (w : CommandWord) : BitVec 4 := w.extractLsb' 0 4

/-- R75 for a command whose `arg` must be 0. -/
def plainCommand (i : Instr) (op arg : BitVec 4) : Except DecodeError Instr :=
  if arg = 0#4 then .ok i else .error (.reservedArg op arg)

/-- R75 for a command whose `arg` is an index that must meet `ok`. -/
def indexedCommand (mk : BitVec 4 → Instr) (ok : BitVec 4 → Bool) (op arg : BitVec 4) : Except DecodeError Instr :=
  if ok arg then .ok (mk arg) else .error (.reservedArg op arg)

/-- Decoding of one word (R76). -/
def decodeWord (w : CommandWord) : Except DecodeError Instr :=
  let op := opField w
  let arg := argField w
  match op.toNat with
  | 0 => plainCommand .rst op arg
  | 1 => plainCommand .srate op arg
  | 2 => indexedCommand .wrp paramArgOk op arg
  | 3 => plainCommand .latch op arg
  | 4 => indexedCommand .cls shelfArgOk op arg
  | 5 => plainCommand .chp op arg
  | 6 => indexedCommand .bq stageArgOk op arg
  | 7 => plainCommand .enc op arg
  | 8 => plainCommand .dec op arg
  | 9 => plainCommand .sat op arg
  | 10 => plainCommand .proc op arg
  | _ => .error (.reservedOp op)

/-- Decoding of the first word of a sequence, with the words left over. -/
def decode : List (CommandWord) → Except DecodeError (Instr × List (CommandWord))
  | [] => .error .noWord
  | w :: rest =>
    match decodeWord w with
    | .ok i => .ok (i, rest)
    | .error e => .error e

/-- Decoding of the first `n` words of a sequence, one command each, with the words left over. -/
def decodeMany : Nat → List (CommandWord) → Except DecodeError (List Instr × List (CommandWord))
  | 0, ws => .ok ([], ws)
  | n + 1, ws =>
    match decode ws with
    | .ok (i, rest) =>
      match decodeMany n rest with
      | .ok (is, left) => .ok (i :: is, left)
      | .error e => .error e
    | .error e => .error e

/-- The value of `op` of a command (R74). -/
def Instr.op : Instr → BitVec 4
  | .rst => 0x0#4
  | .srate => 0x1#4
  | .wrp _ => 0x2#4
  | .latch => 0x3#4
  | .cls _ => 0x4#4
  | .chp => 0x5#4
  | .bq _ => 0x6#4
  | .enc => 0x7#4
  | .dec => 0x8#4
  | .sat => 0x9#4
  | .proc => 0xA#4

/-- The value of `arg` of a command (R75): its index, or 0. -/
def Instr.arg : Instr → BitVec 4
  | .wrp p => p
  | .cls k => k
  | .bq k => k
  | .rst => 0#4
  | .srate => 0#4
  | .latch => 0#4
  | .chp => 0#4
  | .enc => 0#4
  | .dec => 0#4
  | .sat => 0#4
  | .proc => 0#4

/-- The command word: `op` in the high bits, `arg` in the low bits (R71, R82). -/
def encode (i : Instr) : CommandWord := i.op ++ i.arg

/-- One row of the table of R74: a word `w` selects the row when `w & mask = match` and the `arg` constraint holds. -/
structure OpRow where
  op : BitVec 4
  pattern : CommandWord
  mask : CommandWord
  argOk : BitVec 4 → Bool
  agent : Agent

/-- The table of R74, in its order. -/
def opcodeRows : List OpRow :=
  [ ⟨0x0#4, 0x00#8, 0xFF#8, fun a => a == 0#4, .aud⟩,
    ⟨0x1#4, 0x10#8, 0xFF#8, fun a => a == 0#4, .aud⟩,
    ⟨0x2#4, 0x20#8, 0xF0#8, paramArgOk, .ctl⟩,
    ⟨0x3#4, 0x30#8, 0xFF#8, fun a => a == 0#4, .aud⟩,
    ⟨0x4#4, 0x40#8, 0xFD#8, shelfArgOk, .aud⟩,
    ⟨0x5#4, 0x50#8, 0xFF#8, fun a => a == 0#4, .aud⟩,
    ⟨0x6#4, 0x60#8, 0xFC#8, stageArgOk, .aud⟩,
    ⟨0x7#4, 0x70#8, 0xFF#8, fun a => a == 0#4, .aud⟩,
    ⟨0x8#4, 0x80#8, 0xFF#8, fun a => a == 0#4, .aud⟩,
    ⟨0x9#4, 0x90#8, 0xFF#8, fun a => a == 0#4, .aud⟩,
    ⟨0xA#4, 0xA0#8, 0xFF#8, fun a => a == 0#4, .aud⟩ ]

/-- A word selects a row (R74). -/
def OpRow.selects (r : OpRow) (w : CommandWord) : Bool := (w &&& r.mask == r.pattern) && r.argOk (argField w)

/-- Whether a word is one of the 24 legal words (R74, R80). -/
def legalWord (w : CommandWord) : Bool := opcodeRows.any (fun r => r.selects w)

/-- The words an instruction with these `nbits` bits (`w`, bit 0 the least significant) is laid out as: 8 bits a word, the first
word from the lowest bits. -/
def wordsOf : Nat → Nat → List (CommandWord)
  | 0, _ => []
  | n + 1, w => BitVec.ofNat 8 w :: wordsOf n (w / 256)

/-- The instruction the decoder reads from a table row's word; none where it refuses, or where words are left over. -/
def decodeTableWord (nbits w : Nat) : Option Instr :=
  match decode (wordsOf (nbits / 8) w) with
  | .ok (i, []) => some i
  | _ => none

end Sys2Proof
end

