-- ==== Sys2Proof/Machine/State.lean ====
section
/-! DEFINITION. The state of the block as plain data: every element of 10_state.md R20, and the model's own fields for the
ports and the two agents' queues. `⊥` ("unwritten", 00_scope.md R12) is `none`. The carrier `F` of `NUM` is a parameter of the state, as of
the whole machine (00_scope.md R6, R7); `State` written alone is the state over `Sample`, the one `exec` and `step` run on (log 1). -/

namespace Sys2Proof.Machine

/-- One coefficient register set `COEF[k]` (10_state.md R28): six values of the carrier. -/
structure Coef (F : Type) where
  b0 : F
  b1 : F
  b2 : F
  a0 : F
  a1 : F
  a2 : F
deriving DecidableEq, Repr

/-- One filter-state register pair `Z[k]` (10_state.md R29). -/
structure ZPair (F : Type) where
  z1 : F
  z2 : F
deriving DecidableEq, Repr

/-- The micro-steps of `LATCH` and `PROC` by the names of 45_chain_commands.md R160, R161. -/
inductive Phase where
  | lat (p : Fin 11)
  | cls0
  | chp
  | cls2
  | ld0
  | ld1
  | enc
  | bq0
  | bq1
  | bq2
  | dec
  | sat0
  | sat1
  | st0
  | st1
deriving DecidableEq, Repr

/-- The sequencer position `SEQ` (10_state.md R33): no command in progress, or micro-step `ph` of frame `n` is next. -/
inductive Seq where
  | idle
  | run (n : Nat) (ph : Phase)
deriving DecidableEq, Repr

/-- One transaction on the command port (30_encoding.md R70, R77): the command word and the three operands. -/
structure CmdTx (F : Type := Sample) where
  cw : CommandWord
  opa : F
  opb : F
  len : BitVec 32
deriving DecidableEq, Repr

/-- One transaction on the parameter port (R70, R77): the command word and the operand `OPA`. -/
structure ParamTx (F : Type := Sample) where
  cw : CommandWord
  opa : F
deriving DecidableEq, Repr

/-- What the audio side and the host do next, in their own order: a command, or the host's access to one buffer word, whole,
on the buffer port (20_memory.md R53, R55, R58; log 7, log 17). -/
inductive AudInput (F : Type := Sample) where
  | cmd (tx : CmdTx F)
  | bufWrite (addr : Nat) (v : F)
  | bufRead (addr : Nat)
deriving DecidableEq, Repr

/-- The machine's state over the carrier `F` (R7). -/
structure State (F : Type := Sample) where
  /-- `FS` (R23) -/
  fs : Option F
  /-- `P[0..10]` (R24) -/
  p : Vector F 11
  /-- `ACT[0..10]` (R27) -/
  act : Vector (Option F) 11
  /-- `COEF[0..2]` (R28); a set is written whole, so it is `⊥` whole (log 11) -/
  coef : Vector (Option (Coef F)) 3
  /-- `Z[0..2]` (R29) -/
  z : Vector (ZPair F) 3
  /-- `SEQ` (R33) -/
  seq : Seq
  /-- `BUF` (R50, R51): word address and whole word, its only unit (R53), in the canonical form of `bufWf` (Machine/Ops.lean) -/
  buf : List (Nat × F)
  /-- the model's own: an `RST` has been issued since power-on (R172 V7; log 10) -/
  built : Bool
  /-- the model's own: the operand `OPA` on the command port (R72; log 9) -/
  opa : F
  /-- the model's own: the operand `OPB` on the command port (R72; log 9) -/
  opb : F
  /-- the model's own: the operand `LEN` on the command port (R72; log 9) -/
  len : BitVec 32
  /-- the model's own: the operand `OPA` on the parameter port (R72, R77; log 9) -/
  pdata : F
  /-- the model's own: the first result on the result port (R73; log 9) -/
  rsa : Option F
  /-- the model's own: the second result on the result port (R73; log 9) -/
  rsb : Option F
  /-- the model's own: the word the host last read on the buffer port (R55; log 9) -/
  rdata : Option F
  /-- the model's own: what the audio side and the host do next (R58; log 7) -/
  audIn : List (AudInput F)
  /-- the model's own: what the control side does next, each with the number of micro-steps of the audio side it still waits for
  (R58; log 8) -/
  ctlIn : List (Nat × ParamTx F)
  /-- the model's own: how many snapshots have been taken (R154; log 5) -/
  latches : Nat
deriving DecidableEq, Repr

/-- Why the machine stops with a fault: for no reason. An operation completes or is refused, and "there is no third outcome: the block has
no fault, trap or error report" (00_scope.md R11; 60_exceptions.md R170), so this type has no value. -/
inductive Fault
deriving DecidableEq, Repr

/-- Why an operation is refused. `V1` to `V7` are the contract violations of 60_exceptions.md R172, whose treatment there is
"refuse" (00_scope.md R11: no successor state, no value substituted). Each is safe: nothing is claimed of what follows. -/
inductive Refusal where
  /-- An instruction without a meaning. No arm of `exec` answers it. Safe. -/
  | notModelled (mnemonic : String)
  /-- V1: a cutoff `f` with not `0 < f < FS/2` reaches a coefficient calculator. Raised by `CLS`, `CHP` and `PROC`. Safe. -/
  | v1Cutoff
  /-- V2: `SRATE` with `fs` not greater than 0. Raised by `SRATE`. Safe. -/
  | v2SampleRate
  /-- V3: an operation reads a register that holds `⊥`. Raised by `CLS`, `CHP`, `BQ`, `DEC`, `SAT` and `PROC`. Safe. -/
  | v3Unwritten
  /-- V4: `PROC` with `LEN > NMAX`. Raised by `PROC`. Safe. -/
  | v4BlockLength
  /-- V5: a reserved command word, or a command on the wrong port. Raised by the ports, and by `WRP`, `CLS`, `BQ` for an index
  that no legal word carries. Safe. -/
  | v5Reserved
  /-- V6: the host accesses a buffer word the block owns. Raised by the buffer port. Safe. -/
  | v6BufferOwned
  /-- V7: any command but `RST` before the first `RST`. Raised by the ports. Safe. -/
  | v7BeforeReset
  /-- A command is offered while another is in progress, which the command port does not take (30_encoding.md R77,
  60_exceptions.md R182). Raised by the command port. Safe. -/
  | portBusy
  /-- The host accesses an address outside `0 <= addr < 2 * NMAX`, which 20_memory.md R50 says does not exist (log 16). Raised by
  `memRead` and `memWrite`, on the host's behalf only: `PROC` never forms such an address (R56). Safe. -/
  | bufferRange (addr : Nat)
deriving DecidableEq, Repr

/-- What an operation of the machine answers. -/
abbrev Out (α : Type) : Type := Host.Outcome α Fault Refusal

/-- The default of each parameter (10_state.md R24), as the rational it is. -/
def paramDefaultRat : Vector Rat 11 := #v[5 / 2, 250, 6, 140, 4000, 50, 7, 50, 50, 60, 0]

/-- The default of each parameter in `F` (R24; 00_scope.md R10: a numeral stands for `lit` of it). -/
def paramDefaults {F : Type} (N : Numerics F) : Vector F 11 := paramDefaultRat.map N.lit

/-- `Z[k]` after construction (10_state.md R29, R36). -/
def zCleared {F : Type} (N : Numerics F) : ZPair F := ⟨N.lit 0, N.lit 0⟩

/-- The machine in the numerics `N` right after `RST` (10_state.md R36), with nothing in the buffer written yet, the ports quiet and nothing
queued (logs 5 to 10). -/
def State.resetIn {F : Type} [Inhabited F] (N : Numerics F) : State F where
  fs := none
  p := paramDefaults N
  act := Vector.replicate 11 none
  coef := Vector.replicate 3 none
  z := Vector.replicate 3 (zCleared N)
  seq := .idle
  buf := []
  built := true
  opa := default
  opb := default
  len := 0#32
  pdata := default
  rsa := none
  rsb := none
  rdata := none
  audIn := []
  ctlIn := []
  latches := 0

/-- The machine right after `RST` (10_state.md R36); the default word of `Sample` is the all-zero word. -/
def State.reset : State := State.resetIn Config.num

end Sys2Proof.Machine
end

