-- ==== Sys2Proof/Machine/Ops.lean ====
section
/-! DEFINITION. The named operations over the registers and the sample buffer. The block raises no exception and returns from none
(60_exceptions.md R170, R175, R176), so there is no exception entry here: what stands in its place is a refusal
(00_scope.md R11), one constructor of `Refusal` for each violation. -/

namespace Sys2Proof.Machine

variable {F : Type}

/-- Run `k` on what `o` answers; a refusal ends the whole operation (00_scope.md R11: no successor state). -/
def andThen {α β : Type} (o : Out α) (k : α → Out β) : Out β :=
  match o with
  | .next a => k a
  | .fault r => .fault r
  | .refused r => .refused r

/-- What an operation answers, seen through a function of its result. -/
def mapOut {α β : Type} (f : α → β) (o : Out α) : Out β := andThen o (fun a => .next (f a))

/-! Register writes, `r <- v` (R10). -/

/-- `FS <- v`. -/
def State.setFs (s : State F) (v : Option F) : State F := { s with fs := v }

/-- `P[i] <- v`. -/
def State.setParam (s : State F) (i : Fin 11) (v : F) : State F := { s with p := s.p.set i v }

/-- `ACT[i] <- v`. -/
def State.setAct (s : State F) (i : Fin 11) (v : Option F) : State F := { s with act := s.act.set i v }

/-- `COEF[k] <- c`, all six fields. -/
def State.setCoef (s : State F) (k : Fin 3) (c : Option (Coef F)) : State F := { s with coef := s.coef.set k c }

/-- `Z[k] <- v`, both values. -/
def State.setZ (s : State F) (k : Fin 3) (v : ZPair F) : State F := { s with z := s.z.set k v }

/-- `SEQ <- q`. -/
def State.setSeq (s : State F) (q : Seq) : State F := { s with seq := q }

/-- The buffer's contents. -/
def State.setBuf (s : State F) (b : List (Nat × F)) : State F := { s with buf := b }

/-- The operand on the parameter port. -/
def State.setPdata (s : State F) (v : F) : State F := { s with pdata := v }

/-- The control side's queue. -/
def State.setCtlIn (s : State F) (q : List (Nat × ParamTx F)) : State F := { s with ctlIn := q }

/-- The queue of the audio side and the host. -/
def State.setAudIn (s : State F) (q : List (AudInput F)) : State F := { s with audIn := q }

/-- The word the host reads on the buffer port. -/
def State.setRdata (s : State F) (v : Option F) : State F := { s with rdata := v }

/-- `RSA <- a`, `RSB <- b` (30_encoding.md R73). -/
def State.deliver (s : State F) (a b : Option F) : State F := { s with rsa := a, rsb := b }

/-- The count of snapshots taken, one more. -/
def State.countLatch (s : State F) : State F := { s with latches := s.latches + 1 }

/-- One micro-step of the audio side has passed: the first pending `CTL` write waits for one fewer (R58; log 8). -/
def tickQueue : List (Nat × ParamTx F) → List (Nat × ParamTx F)
  | (g + 1, tx) :: rest => (g, tx) :: rest
  | q => q

/-- `tickQueue` on the state's queue. -/
def State.tick (s : State F) : State F := { s with ctlIn := tickQueue s.ctlIn }

/-- A command's operands stand on the command port, its first micro-step passes, and the result port is empty until the command
delivers (R70, R72, R73). -/
def State.present (s : State F) (tx : CmdTx F) : State F :=
  { s with opa := tx.opa, opb := tx.opb, len := tx.len, rsa := none, rsb := none, ctlIn := tickQueue s.ctlIn }

/-! The sample buffer (20_memory.md R50 to R53). Its unit is the word, one `Sample`: every operation below takes a word address and moves
one whole word, and there is no operation on a part of a word or on several (R53, R56), so nothing can show a byte order. -/

section Buffer

/-- `BUFADDR(c, n) = c * NMAX + n` (R51). -/
def bufAddr (c n : Nat) : Nat := c * Config.NMAX + n

variable [Inhabited F]

/-- The word at an address: the one last written there, else what the word held at power-on (R52; log 6). -/
def bufRead : List (Nat × F) → Nat → F
  | [], a => Config.bufPowerOn a
  | (b, v) :: rest, a => if a = b then v else bufRead rest a

/-- `MemRead(addr, 1)` (R10, R52): one whole word (R53). An address outside the buffer does not exist (R50): refused (R11; log 16). -/
def memRead (s : State F) (addr : Nat) : Out F :=
  if addr < 2 * Config.NMAX then .next (bufRead s.buf addr) else .refused (.bufferRange addr)

variable [DecidableEq F]

/-- The buffer after a word is written, in canonical form: a word equal to what an unlisted address reads as is not listed. -/
def bufWrite : List (Nat × F) → Nat → F → List (Nat × F)
  | [], a, v => if v = Config.bufPowerOn a then [] else [(a, v)]
  | (b, w) :: rest, a, v =>
    if a < b then (if v = Config.bufPowerOn a then (b, w) :: rest else (a, v) :: (b, w) :: rest)
    else if a = b then (if v = Config.bufPowerOn a then rest else (a, v) :: rest)
    else (b, w) :: bufWrite rest a v

/-- The canonical form from an address on: addresses strictly rising, inside the buffer, no entry equal to what an unlisted
address reads as. -/
def bufWfFrom : Nat → List (Nat × F) → Bool
  | _, [] => true
  | lo, (a, v) :: rest =>
    decide (lo ≤ a) && decide (a < 2 * Config.NMAX) && decide (v ≠ Config.bufPowerOn a) && bufWfFrom (a + 1) rest

/-- The canonical form of the buffer. -/
def bufWf (b : List (Nat × F)) : Bool := bufWfFrom 0 b

/-- `MemWrite(addr, 1, v)` (R10, R52): one whole word (R53), with the same range. -/
def memWrite (s : State F) (addr : Nat) (v : F) : Out (State F) :=
  if addr < 2 * Config.NMAX then .next (s.setBuf (bufWrite s.buf addr v)) else .refused (.bufferRange addr)

end Buffer

/-! Operations of the chain's registers. -/

/-- One micro-step `LAT(i)`: `ACT[i] <- P[i]` (45_chain_commands.md R154). -/
def copyParam (i : Fin 11) (s : State F) : State F := s.setAct i (some s.p[i])

/-- Construction of the chain: the assignments of R151 (10_state.md R36). The buffer is not touched. -/
def construct (N : Numerics F) (s : State F) : State F :=
  { s with
    z := Vector.replicate 3 (zCleared N)
    coef := Vector.replicate 3 none
    act := Vector.replicate 11 none
    p := paramDefaults N
    fs := none
    seq := .idle
    built := true }

end Sys2Proof.Machine
end

