-- ==== Sys2Proof/Machine/Operands.lean ====
section
/-! DEFINITION. The operand forms: the index in `arg` (30_encoding.md R72, R75), and reads of the registers that may hold `⊥`
(00_scope.md R12), which are refused with violation V3 (60_exceptions.md R172). `OPA`, `OPB` and `LEN` are used as they stand on the
port, with no conversion (R72). -/

namespace Sys2Proof.Machine

variable {F : Type}

/-- The parameter index `p` of `WRP`, 0 to 10 (R75). -/
def paramIndex (a : BitVec 4) : Option (Fin 11) :=
  if h : a.toNat < 11 then some ⟨a.toNat, h⟩ else none

/-- The stage index `k` of `BQ`, 0 to 2 (R75). -/
def stageIndex (a : BitVec 4) : Option (Fin 3) :=
  if h : a.toNat < 3 then some ⟨a.toNat, h⟩ else none

/-- The two shelving stages (10_state.md R22): stage 0, mid low-shelf, and stage 2, side low-shelf. -/
inductive Shelf where
  | mid
  | side
deriving DecidableEq, Repr

/-- The stage index `k` of `CLS`, 0 or 2 (R75). -/
def shelfIndex (a : BitVec 4) : Option Shelf :=
  if a.toNat = 0 then some .mid else if a.toNat = 2 then some .side else none

/-- The stage a shelving filter owns (R22). -/
def shelfStage : Shelf → Fin 3
  | .mid => 0
  | .side => 2

/-- `HPF`, the index of the high-pass cutoff (R25). -/
def hpfIndex : SideFreqAssign → Fin 11
  | .lowerToHp => 3
  | .lowerToShelf => 4

/-- `SSF`, the index of the side shelf cutoff (R25). -/
def ssfIndex : SideFreqAssign → Fin 11
  | .lowerToHp => 4
  | .lowerToShelf => 3

/-- The gain parameter of a shelving stage (R22). -/
def shelfGain : Shelf → Fin 11
  | .mid => 0
  | .side => 2

/-- The cutoff parameter of a shelving stage (R22, R25). -/
def shelfFreq : Shelf → Fin 11
  | .mid => 1
  | .side => ssfIndex Config.sideFreqAssign

/-- The cutoff parameter of the high-pass stage (R22, R25). -/
def highPassFreq : Fin 11 := hpfIndex Config.sideFreqAssign

/-- A register that may hold `⊥`, read: refused with V3 when it does (R12). -/
def readWritten {α : Type} (r : Option α) : Out α :=
  match r with
  | some v => .next v
  | none => .refused .v3Unwritten

/-- Read `FS` (R23). -/
def readFs (s : State F) : Out F := readWritten s.fs

/-- Read `ACT[i]` (R27). -/
def readAct (s : State F) (i : Fin 11) : Out F := readWritten s.act[i]

/-- Read `COEF[k]` (R28). -/
def readCoef (s : State F) (k : Fin 3) : Out (Coef F) := readWritten s.coef[k]

end Sys2Proof.Machine
end

