-- ==== Sys2Proof/Machine/Flags.lean ====
section
/-! DEFINITION. The block has no status flag, condition code or predicate register (10_state.md R32), so no flag is computed
anywhere. The truth values the block does compute are the preconditions of its commands, and they stand here; the order of `NUM` is
used in them only (00_scope.md R7). -/

namespace Sys2Proof.Machine

/-- The precondition of a coefficient calculator, as the pseudocode writes it: `0 < f`, `f < fs / 2`, `0 < fs`
(41_shelving_coef.md R111, 42_highpass_coef.md R121). -/
def cutoffOk {F : Type} (N : Numerics F) (f fs : F) : Bool :=
  N.lt (N.lit 0) f && N.lt f (N.div fs (N.lit 2)) && N.lt (N.lit 0) fs

/-- The precondition of `SRATE`: `0 < OPA` (45_chain_commands.md R152). -/
def rateOk {F : Type} (N : Numerics F) (fs : F) : Bool := N.lt (N.lit 0) fs

end Sys2Proof.Machine
end

