-- ==== Sys2Proof/Machine/Biquad.lean ====
section
/-! DEFINITION. The BiquadStage unit and the command `BQ k` (40_biquad.md). -/

namespace Sys2Proof.Machine

variable {F : Type}

/-- The recurrence of R101 on one sample: the output `y` and the new `(z1, z2)`, both computed from the old pair. The field `a0` is
not read. -/
def biquadStep {F : Type} (N : Numerics F) (c : Coef F) (z : ZPair F) (x : F) : F × ZPair F :=
  let y := N.add (N.mul c.b0 x) z.z1
  let z1n := N.sub (N.add z.z2 (N.mul c.b1 x)) (N.mul c.a1 y)
  let z2n := N.sub (N.mul c.b2 x) (N.mul c.a2 y)
  (y, ⟨z1n, z2n⟩)

/-- Stage `k` on one sample: V3 if `COEF[k]` is `⊥`, else `Z[k]` is updated and `y` comes out (R101). -/
def runStage (N : Numerics F) (k : Fin 3) (x : F) (s : State F) : Out (F × State F) :=
  andThen (readCoef s k) fun c =>
    let r := biquadStep N c s.z[k] x
    .next (r.1, s.setZ k r.2)

/-- `BQ k, x -> y` (R101), in the numerics `N`. An index that no legal word carries is reserved (30_encoding.md R75, R80). -/
def execBqIn (N : Numerics F) (k : BitVec 4) (s : State F) : Out (State F) :=
  match stageIndex k with
  | some k => andThen (runStage N k s.opa s) fun r => .next (r.2.deliver (some r.1) none)
  | none => .refused .v5Reserved

/-- `BQ k, x -> y` (R101). -/
def execBq (k : BitVec 4) (s : State) : Out State := execBqIn Config.num k s

end Sys2Proof.Machine
end

