-- ==== Sys2Proof/Machine/Shelving.lean ====
section
/-! DEFINITION. The ShelvingFilter coefficient calculator and the command `CLS k` (41_shelving_coef.md). -/

namespace Sys2Proof.Machine

variable {F : Type}

/-- Six raw values each divided by the raw `a0` (41_shelving_coef.md R112, 42_highpass_coef.md R122). -/
def normalise {F : Type} (N : Numerics F) (r : Coef F) : Coef F :=
  { b0 := N.div r.b0 r.a0
    b1 := N.div r.b1 r.a0
    b2 := N.div r.b2 r.a0
    a0 := N.div r.a0 r.a0
    a1 := N.div r.a1 r.a0
    a2 := N.div r.a2 r.a0 }

/-- `w0 = ((2 * PI) * f) / fs` (R111, R121). -/
def omega {F : Type} (N : Numerics F) (f fs : F) : F := N.div (N.mul (N.mul (N.lit 2) N.PI) f) fs

/-- `alpha = sin(w0) / (2 * Q)` (R111, R121). -/
def alphaOf {F : Type} (N : Numerics F) (w0 : F) : F := N.div (N.sin w0) (N.mul (N.lit 2) N.Q)

/-- The shelf amplitude `A = pow10(G / 40)` (R111). -/
def shelfAmplitude {F : Type} (N : Numerics F) (G : F) : F := N.pow10 (N.div G (N.lit 40))

/-- The raw six values of R111, in the order of its pseudocode. -/
def shelfRaw {F : Type} (N : Numerics F) (G f fs : F) : Coef F :=
  let A := shelfAmplitude N G
  let w0 := omega N f fs
  let cw := N.cos w0
  let alpha := alphaOf N w0
  let sa := N.mul (N.mul (N.lit 2) (N.sqrt A)) alpha
  let Ap1 := N.add A (N.lit 1)
  let Am1 := N.sub A (N.lit 1)
  let t := N.mul Am1 cw
  let u := N.mul Ap1 cw
  { b0 := N.mul A (N.add (N.sub Ap1 t) sa)
    b1 := N.mul (N.mul (N.lit 2) A) (N.sub Am1 u)
    b2 := N.mul A (N.sub (N.sub Ap1 t) sa)
    a0 := N.add (N.add Ap1 t) sa
    a1 := N.mul (N.lit (-2)) (N.add Am1 u)
    a2 := N.sub (N.add Ap1 t) sa }

/-- The stored low-shelf coefficients (R111, R112). -/
def shelfCoef {F : Type} (N : Numerics F) (G f fs : F) : Coef F := normalise N (shelfRaw N G f fs)

/-- Compute `COEF[k]` of a shelving stage: V3 if `FS`, the gain or the cutoff is `⊥`, V1 if the cutoff is out of range (R111). -/
def calcShelf (N : Numerics F) (k : Shelf) (s : State F) : Out (State F) :=
  andThen (readFs s) fun fs =>
  andThen (readAct s (shelfGain k)) fun G =>
  andThen (readAct s (shelfFreq k)) fun f =>
    if cutoffOk N f fs then .next (s.setCoef (shelfStage k) (some (shelfCoef N G f fs)))
    else .refused .v1Cutoff

/-- `CLS k` (R111), in the numerics `N`. An index that no legal word carries is reserved (30_encoding.md R75, R80). -/
def execClsIn (N : Numerics F) (k : BitVec 4) (s : State F) : Out (State F) :=
  match shelfIndex k with
  | some k => calcShelf N k s
  | none => .refused .v5Reserved

/-- `CLS k` (R111). -/
def execCls (k : BitVec 4) (s : State) : Out State := execClsIn Config.num k s

end Sys2Proof.Machine
end

