-- ==== Sys2Proof/Machine/HighPass.lean ====
section
/-! DEFINITION. The HighPassFilter coefficient calculator and the command `CHP` (42_highpass_coef.md). -/

namespace Sys2Proof.Machine

variable {F : Type}

/-- The raw six values of R121, in the order of its pseudocode. -/
def highPassRaw {F : Type} (N : Numerics F) (f fs : F) : Coef F :=
  let w0 := omega N f fs
  let cw := N.cos w0
  let alpha := alphaOf N w0
  let opc := N.add (N.lit 1) cw
  { b0 := N.div opc (N.lit 2)
    b1 := N.neg opc
    b2 := N.div opc (N.lit 2)
    a0 := N.add (N.lit 1) alpha
    a1 := N.mul (N.lit (-2)) cw
    a2 := N.sub (N.lit 1) alpha }

/-- The stored high-pass coefficients (R121, R122). -/
def highPassCoef {F : Type} (N : Numerics F) (f fs : F) : Coef F := normalise N (highPassRaw N f fs)

/-- Compute `COEF[1]`: V3 if `FS` or the cutoff is `⊥`, V1 if the cutoff is out of range (R121). -/
def calcHighPass (N : Numerics F) (s : State F) : Out (State F) :=
  andThen (readFs s) fun fs =>
  andThen (readAct s highPassFreq) fun f =>
    if cutoffOk N f fs then .next (s.setCoef 1 (some (highPassCoef N f fs)))
    else .refused .v1Cutoff

/-- `CHP` (R121), in the numerics `N`. -/
def execChpIn (N : Numerics F) (s : State F) : Out (State F) := calcHighPass N s

/-- `CHP` (R121). -/
def execChp (s : State) : Out State := execChpIn Config.num s

end Sys2Proof.Machine
end

