-- ==== Sys2Proof/Machine/MidSide.lean ====
section
/-! DEFINITION. The MidSideCodec and the commands `ENC` and `DEC` (43_midside.md). -/

namespace Sys2Proof.Machine

variable {F : Type}

/-- Left/right to mid/side (R131). -/
def midSideEncode {F : Type} (N : Numerics F) (L R : F) : F × F :=
  (N.div (N.add L R) (N.lit 2), N.div (N.sub L R) (N.lit 2))

/-- The make-up gain in decibels as a linear factor (R132). -/
def makeUpGain {F : Type} (N : Numerics F) (dB : F) : F := N.pow10 (N.div dB (N.lit 20))

/-- Mid/side to left/right, with the make-up gain (R133). -/
def midSideDecode {F : Type} (N : Numerics F) (dB mid side : F) : F × F :=
  let g := makeUpGain N dB
  (N.mul (N.add mid side) g, N.mul (N.sub mid side) g)

/-- The decoder on one frame: V3 if `ACT[10]` is `⊥` (R133). -/
def decodeFrame (N : Numerics F) (mid side : F) (s : State F) : Out (F × F) :=
  andThen (readAct s 10) fun dB => .next (midSideDecode N dB mid side)

/-- `ENC l, r -> m, s` (R131), in the numerics `N`. -/
def execEncIn (N : Numerics F) (s : State F) : Out (State F) :=
  let r := midSideEncode N s.opa s.opb
  .next (s.deliver (some r.1) (some r.2))

/-- `ENC l, r -> m, s` (R131). -/
def execEnc (s : State) : Out State := execEncIn Config.num s

/-- `DEC m, s -> l, r` (R133), in the numerics `N`. -/
def execDecIn (N : Numerics F) (s : State F) : Out (State F) :=
  andThen (decodeFrame N s.opa s.opb s) fun r => .next (s.deliver (some r.1) (some r.2))

/-- `DEC m, s -> l, r` (R133). -/
def execDec (s : State) : Out State := execDecIn Config.num s

end Sys2Proof.Machine
end

