-- ==== Sys2Proof/Machine/Control.lean ====
section
/-! DEFINITION. The commands `RST`, `SRATE` and `WRP` (45_chain_commands.md R151 to R153). -/

namespace Sys2Proof.Machine

variable {F : Type}

/-- `RST` (R151), in the numerics `N`: never refused, defined from every state. -/
def execRstIn (N : Numerics F) (s : State F) : Out (State F) := .next (construct N s)

/-- `RST` (R151). -/
def execRst (s : State) : Out State := execRstIn Config.num s

/-- `SRATE fs` (R152), in the numerics `N`: `FS` and nothing else. -/
def execSrateIn (N : Numerics F) (s : State F) : Out (State F) :=
  if rateOk N s.opa then .next (s.setFs (some s.opa)) else .refused .v2SampleRate

/-- `SRATE fs` (R152). -/
def execSrate (s : State) : Out State := execSrateIn Config.num s

/-- `WRP p, v` (R153), over any carrier and with no member of `NUM`, with `v` on the parameter port: stored as given. An index that no legal word carries is reserved
(30_encoding.md R80). -/
def execWrpIn (p : BitVec 4) (s : State F) : Out (State F) :=
  match paramIndex p with
  | some i => .next (s.setParam i s.pdata)
  | none => .refused .v5Reserved

/-- `WRP p, v` (R153). -/
def execWrp (p : BitVec 4) (s : State) : Out State := execWrpIn p s

end Sys2Proof.Machine
end

