-- ==== Sys2Proof/Machine/Ports.lean ====
section
/-! DEFINITION. The ports (30_encoding.md R77) and the interleaving of the two agents (20_memory.md R58; logs 7 and 8). A pending
`CTL` write is a pair (g, transaction): it lands once g more micro-steps of the audio side have passed. So any interleaving of R58 is
one pair of queues. -/

namespace Sys2Proof.Machine

variable {F : Type}

/-- A transaction on the parameter port: `WRP` only, whatever `SEQ` is (R77); any other word is reserved there (R80); nothing has a
meaning before the first `RST` (60_exceptions.md R172, V7 checked first by R173). -/
def takeParam (tx : ParamTx F) (s : State F) : Out (State F) :=
  if s.built then
    match decodeWord tx.cw with
    | .ok (.wrp p) => execWrpIn p (s.setPdata tx.opa)
    | _ => .refused .v5Reserved
  else .refused .v7BeforeReset

/-- The `CTL` writes that are due land, in `CTL`'s order; the list is the state's queue. -/
def landDueFrom : List (Nat × ParamTx F) → State F → Out (State F)
  | (0, tx) :: rest, s => andThen (takeParam tx (s.setCtlIn rest)) (landDueFrom rest)
  | _, s => .next s

/-- The gap before a micro-step inside a command: the writes that are due land (R58: "including between any two micro-steps of a
`PROC` or a `LATCH`"), then the micro-step itself counts for those still waiting. -/
def between (s : State F) : Out (State F) := andThen (landDueFrom s.ctlIn s) fun t => .next t.tick

/-- A transaction on the command port (R77): every command but `WRP`, taken only when `SEQ = IDLE`; before the first `RST` only
`RST`, whatever the unspecified `SEQ` holds (R151, R172 V7). `run` is the meaning of a command. -/
def takeCommand (run : Instr → State F → Out (State F)) (tx : CmdTx F) (s : State F) : Out (State F) :=
  match decodeWord tx.cw with
  | .ok i =>
    if s.built = false ∧ i ≠ .rst then .refused .v7BeforeReset
    else if i.agent = .ctl then .refused .v5Reserved
    else if s.built = true ∧ s.seq ≠ .idle then .refused .portBusy
    else run i (s.present tx)
  | .error _ => if s.built then .refused .v5Reserved else .refused .v7BeforeReset

/-- Whether the block owns a buffer word: a `PROC` is in progress and the word's frame is below `LEN` (R55). Before the first `RST`, where
`SEQ` is unspecified (10_state.md R36) and the spec gives a host access neither a meaning nor a violation (R172 V7 speaks of commands,
R182 only puts `RST` first), the block owns no word, so the host's access is served whatever `SEQ` holds: DESIGN CHOICE, log 26. -/
def blockOwns (s : State F) (addr : Nat) : Bool :=
  s.built && (s.seq != .idle) && decide (addr % Config.NMAX < s.len.toNat)

variable [Inhabited F] [DecidableEq F]

/-- The host writes a buffer word, whole (R53, R55); a word the block owns is violation V6. -/
def hostWrite (addr : Nat) (v : F) (s : State F) : Out (State F) :=
  if blockOwns s addr then .refused .v6BufferOwned else memWrite s addr v

/-- The host reads a buffer word, whole (R53, R55); reading changes nothing of the block (R57). -/
def hostRead (addr : Nat) (s : State F) : Out (State F) :=
  if blockOwns s addr then .refused .v6BufferOwned
  else andThen (memRead s addr) fun v => .next (s.setRdata (some v))

/-- The next act of the audio side or of the host. -/
def takeAud (run : Instr → State F → Out (State F)) (a : AudInput F) (s : State F) : Out (State F) :=
  match a with
  | .cmd tx => takeCommand run tx s
  | .bufWrite addr v => hostWrite addr v s
  | .bufRead addr => hostRead addr s

/-- One step between commands: a `CTL` write that is due lands; else the audio side's next act is taken; else, with nothing left on
that side to wait for, the next `CTL` write lands; else the block waits, idle (70_reset_and_hazards.md R192; log 18). -/
def takeNext (run : Instr → State F → Out (State F)) (s : State F) : Out (State F) :=
  match s.ctlIn, s.audIn with
  | (0, tx) :: rest, _ => takeParam tx (s.setCtlIn rest)
  | _, a :: rest => takeAud run a (s.setAudIn rest)
  | (_ + 1, tx) :: rest, [] => takeParam tx (s.setCtlIn rest)
  | [], [] => .next s

end Sys2Proof.Machine
end

