-- ==== Sys2Proof/Machine/Saturator.lean ====
section
/-! DEFINITION. The tanh-plus-sine waveshaper with mix and the command `SAT` (44_saturator.md). -/

namespace Sys2Proof.Machine

variable {F : Type}

/-- The five parameters of the saturator by the document's names (10_state.md R26). -/
structure SatParams (F : Type) where
  /-- amplitude_A, `ACT[5]` -/
  ampA : F
  /-- slope_k, `ACT[6]` -/
  slope : F
  /-- mix, `ACT[7]` -/
  mix : F
  /-- amplitude_B, `ACT[8]` -/
  ampB : F
  /-- frequency_f, `ACT[9]` -/
  freq : F
deriving DecidableEq, Repr

/-- `lit(0.01)`, the scale of the amplitudes and of the mix (00_scope.md R10, R14). -/
def percent {F : Type} (N : Numerics F) : F := N.lit (1 / 100)

/-- The shaped signal `y` before the mix (R141). -/
def satWet {F : Type} (N : Numerics F) (q : SatParams F) (x : F) : F :=
  let ampA := N.mul q.ampA (percent N)
  let ampB := N.mul q.ampB (percent N)
  N.add (N.mul ampA (N.tanh (N.mul x q.slope))) (N.mul ampB (N.sin (N.mul x q.freq)))

/-- `mix_scaled = mix * 0.01` (R142). -/
def satMix {F : Type} (N : Numerics F) (q : SatParams F) : F := N.mul q.mix (percent N)

/-- `out = y * mix_scaled`; there is no dry path (R141, R143). -/
def saturate {F : Type} (N : Numerics F) (q : SatParams F) (x : F) : F := N.mul (satWet N q x) (satMix N q)

/-- The saturator's parameters from the snapshot: V3 if one of `ACT[5..9]` is `⊥` (R141). -/
def readSatParams (s : State F) : Out (SatParams F) :=
  andThen (readAct s 5) fun a =>
  andThen (readAct s 6) fun k =>
  andThen (readAct s 7) fun m =>
  andThen (readAct s 8) fun b =>
  andThen (readAct s 9) fun f =>
    .next { ampA := a, slope := k, mix := m, ampB := b, freq := f }

/-- The saturator on one sample (R141). -/
def saturateSample (N : Numerics F) (x : F) (s : State F) : Out F :=
  andThen (readSatParams s) fun q => .next (saturate N q x)

/-- `SAT x -> out` (R141), in the numerics `N`. -/
def execSatIn (N : Numerics F) (s : State F) : Out (State F) :=
  andThen (saturateSample N s.opa s) fun y => .next (s.deliver (some y) none)

/-- `SAT x -> out` (R141). -/
def execSat (s : State) : Out State := execSatIn Config.num s

end Sys2Proof.Machine
end

