-- ==== Sys2Proof/Machine/Chain.lean ====
section
/-! DEFINITION. The SignalChain sequencer and the commands `LATCH` and `PROC` (45_chain_commands.md R154, R158 to R161): a command of
several micro-steps is the list of them (`latchPlan`, `procPlan`), run in order with the `CTL` writes landing between. -/

namespace Sys2Proof.Machine

variable {F : Type}

/-- The temporaries of one frame by the names of R161. They are no state (10_state.md R30): they exist only while a `PROC` runs, and
each is written in a frame before that frame reads it. -/
structure Temps (F : Type) where
  L : F
  R : F
  m : F
  s : F
  m1 : F
  s1 : F
  s2 : F
  Ld : F
  Rd : F
  Lo : F
  Ro : F
deriving DecidableEq, Repr

/-- What the temporaries hold before anything has been written to them; nothing reads it (log 13). -/
def Temps.blank [Inhabited F] : Temps F :=
  ⟨default, default, default, default, default, default, default, default, default, default, default⟩

/-- A command in progress: the machine's state and the temporaries. -/
structure Work (F : Type) where
  st : State F
  tmp : Temps F
deriving DecidableEq, Repr

variable [Inhabited F] [DecidableEq F]

/-- One micro-step of frame `n` (R160, R161), in the numerics `N`. -/
def micro (N : Numerics F) (n : Nat) (ph : Phase) (w : Work F) : Out (Work F) :=
  match ph with
  | .lat p => .next { w with st := copyParam p w.st }
  | .cls0 => mapOut (fun s => { w with st := s }) (calcShelf N .mid w.st)
  | .chp => mapOut (fun s => { w with st := s }) (calcHighPass N w.st)
  | .cls2 => mapOut (fun s => { w with st := s }) (calcShelf N .side w.st)
  | .ld0 => mapOut (fun v => { w with tmp := { w.tmp with L := v } }) (memRead w.st (bufAddr 0 n))
  | .ld1 => mapOut (fun v => { w with tmp := { w.tmp with R := v } }) (memRead w.st (bufAddr 1 n))
  | .enc =>
    let r := midSideEncode N w.tmp.L w.tmp.R
    .next { w with tmp := { w.tmp with m := r.1, s := r.2 } }
  | .bq0 => mapOut (fun r => { st := r.2, tmp := { w.tmp with m1 := r.1 } }) (runStage N 0 w.tmp.m w.st)
  | .bq1 => mapOut (fun r => { st := r.2, tmp := { w.tmp with s1 := r.1 } }) (runStage N 1 w.tmp.s w.st)
  | .bq2 => mapOut (fun r => { st := r.2, tmp := { w.tmp with s2 := r.1 } }) (runStage N 2 w.tmp.s1 w.st)
  | .dec => mapOut (fun r => { w with tmp := { w.tmp with Ld := r.1, Rd := r.2 } }) (decodeFrame N w.tmp.m1 w.tmp.s2 w.st)
  | .sat0 => mapOut (fun v => { w with tmp := { w.tmp with Lo := v } }) (saturateSample N w.tmp.Ld w.st)
  | .sat1 => mapOut (fun v => { w with tmp := { w.tmp with Ro := v } }) (saturateSample N w.tmp.Rd w.st)
  | .st0 => mapOut (fun s => { w with st := s }) (memWrite w.st (bufAddr 0 n) w.tmp.Lo)
  | .st1 => mapOut (fun s => { w with st := s }) (memWrite w.st (bufAddr 1 n) w.tmp.Ro)

/-- The micro-steps after the first: before each, `SEQ` says that it is next (R33, R160) and the `CTL` writes that are due land. -/
def runRest (N : Numerics F) : List (Nat × Phase) → Work F → Out (Work F)
  | [], w => .next w
  | (n, ph) :: rest, w =>
    andThen (between (w.st.setSeq (.run n ph))) fun s =>
    andThen (micro N n ph { w with st := s }) (runRest N rest)

/-- A command's micro-steps; `SEQ` is `IDLE` before the first (R160). -/
def runPlan (N : Numerics F) : List (Nat × Phase) → Work F → Out (Work F)
  | [], w => .next w
  | (n, ph) :: rest, w => andThen (micro N n ph w) (runRest N rest)

/-- The eleven micro-steps `LAT(p)` in an order of the registers (R154). -/
def latchPlan (order : Equiv.Perm (Fin 11)) : List (Nat × Phase) :=
  (List.finRange 11).map fun j => (0, .lat (order j))

/-- The three coefficient computations of a block (R158, R160). -/
def coefPlan : List (Nat × Phase) := [(0, .cls0), (0, .chp), (0, .cls2)]

/-- The eleven micro-steps of a frame (R161). -/
def framePlan (n : Nat) : List (Nat × Phase) :=
  [(n, .ld0), (n, .ld1), (n, .enc), (n, .bq0), (n, .bq1), (n, .bq2), (n, .dec), (n, .sat0), (n, .sat1), (n, .st0), (n, .st1)]

/-- The `14 + 11 * N` micro-steps of `PROC` with `LEN = N >= 1` (R160). -/
def procPlan (order : Equiv.Perm (Fin 11)) (N : Nat) : List (Nat × Phase) :=
  latchPlan order ++ coefPlan ++ (List.range N).flatMap framePlan

/-- Run a command of several micro-steps from `SEQ = IDLE` back to `SEQ = IDLE` (R33), with a snapshot among them. -/
def runCommand (N : Numerics F) (plan : List (Nat × Phase)) (s : State F) : Out (State F) :=
  mapOut (fun w => w.st.setSeq .idle) (runPlan N plan ⟨s.countLatch, Temps.blank⟩)

/-- `LATCH` (R154), in the free order of this snapshot (log 5) and in the numerics `N`, which it does not use. -/
def execLatchIn (N : Numerics F) (s : State F) : Out (State F) := runCommand N (latchPlan (Config.latchOrder s.latches)) s

/-- `LATCH` (R154). -/
def execLatch (s : State) : Out State := execLatchIn Config.num s

/-- `PROC n` (R158), in the numerics `N`: nothing for an empty block; V4 if it does not fit, V3 if no sample rate is set; then the block, which V1
refuses whole if a cutoff is out of range (R159). -/
def execProcIn (N : Numerics F) (s : State F) : Out (State F) :=
  if s.len = 0#32 then .next s
  else if Config.NMAX < s.len.toNat then .refused .v4BlockLength
  else andThen (readFs s) fun _ => runCommand N (procPlan (Config.latchOrder s.latches) s.len.toNat) s

/-- `PROC n` (R158). -/
def execProc (s : State) : Out State := execProcIn Config.num s

end Sys2Proof.Machine
end

