-- ==== Sys2Proof/Machine/Dispatch.lean ====
section
/-! DEFINITION. One arm per command. -/

namespace Sys2Proof.Machine

def exec (i : Instr) (s : State) : Host.Outcome State Fault Refusal :=
  match i with
  | .rst => Sys2Proof.Machine.execRst s
  | .srate => Sys2Proof.Machine.execSrate s
  | .wrp p => Sys2Proof.Machine.execWrp p s
  | .latch => Sys2Proof.Machine.execLatch s
  | .cls k => Sys2Proof.Machine.execCls k s
  | .chp => Sys2Proof.Machine.execChp s
  | .bq k => Sys2Proof.Machine.execBq k s
  | .enc => Sys2Proof.Machine.execEnc s
  | .dec => Sys2Proof.Machine.execDec s
  | .sat => Sys2Proof.Machine.execSat s
  | .proc => Sys2Proof.Machine.execProc s

end Sys2Proof.Machine
end

