-- ==== Sys2Proof/Machine/Place.lean ====
section
/-! DEFINITION. Placing one command on its port: the block fetches nothing (10_state.md R33, 20_memory.md R62), so the place a command
comes from is the head of the queue of the agent that may issue it (30_encoding.md R74, R77; log 22). -/

namespace Sys2Proof.Machine

/-- One more micro-step to wait for, for a `CTL` write that is due: a command put before it goes first. -/
def holdQueue : List (Nat × ParamTx) → List (Nat × ParamTx)
  | (0, tx) :: rest => (1, tx) :: rest
  | q => q

/-- The word of `nbits` bits at the head of its port's queue, with all operands zero: `WRP` on the parameter port, every other word
on the command port, which takes it because the sequencer is idle and the chain constructed. -/
def placeWord (s : State) (nbits w : Nat) : State :=
  let cw := BitVec.ofNat 8 (w % 2 ^ nbits)
  match decodeWord cw with
  | .ok (.wrp _) => { s with built := true, seq := .idle, ctlIn := (0, ⟨cw, 0#Config.W⟩) :: s.ctlIn }
  | _ =>
    { s with
      built := true
      seq := .idle
      ctlIn := holdQueue s.ctlIn
      audIn := .cmd ⟨cw, 0#Config.W, 0#Config.W, 0#32⟩ :: s.audIn }

end Sys2Proof.Machine
end

