-- ==== Sys2Proof/Machine/Step.lean ====
section
/-! DEFINITION. One step of the machine: one act of one agent, a command of `AUD` whole with the `CTL` writes that fall inside it
(log 7, log 12). -/

namespace Sys2Proof.Machine

/-- One step (Machine/Ports.lean). -/
def step (s : State) : Host.Outcome State Fault Refusal := takeNext exec s

/-- The command word `w` at the head of its port's queue, so that the next step takes it (Machine/Place.lean; log 22). -/
def State.withFetchWord (s : State) (nbits w : Nat) : State := placeWord s nbits w

end Sys2Proof.Machine
end

