-- ==== Sys2Proof/Machine/AnyNumerics.lean ====
section
/-! DEFINITION. The machine as a function of its numerics: "The model takes the following parameters as arguments" (00_scope.md R6). `NUM` is
any record of R7 over any carrier `F`, the reference record `Numerics.real` over the reals (R8) among them; a carrier brings only that it has
a member and that two of its values can be told apart, which the buffer's canonical form needs and no rule sees (log 1). `exec` and `step`
are `execIn` and `stepIn` at the open constant `Config.num` over `Sample`. -/

namespace Sys2Proof.Machine

variable {F : Type} [Inhabited F] [DecidableEq F]

/-- One whole command in the numerics `N`; `WRP` uses none. -/
def execIn (N : Numerics F) (i : Instr) (s : State F) : Out (State F) :=
  match i with
  | .rst => execRstIn N s
  | .srate => execSrateIn N s
  | .wrp p => execWrpIn p s
  | .latch => execLatchIn N s
  | .cls k => execClsIn N k s
  | .chp => execChpIn N s
  | .bq k => execBqIn N k s
  | .enc => execEncIn N s
  | .dec => execDecIn N s
  | .sat => execSatIn N s
  | .proc => execProcIn N s

/-- One step in the numerics `N`. -/
def stepIn (N : Numerics F) (s : State F) : Out (State F) := takeNext (execIn N) s

/-- The whole machine in the numerics `N`, behind the host's interface. -/
def machineIn (N : Numerics F) : Host.Core :=
  { State := State F
    Fault := Fault
    Refusal := Refusal
    step := stepIn N
    reset := State.resetIn N }

/-- A claim about the meaning of commands, for the machine in any numerics over any carrier and for the machine `exec` itself, which is the
first at the numerics `Config.num`. -/
def InAnyNumerics
    (claim : (F : Type) → [Inhabited F] → [DecidableEq F] → Numerics F → (Instr → State F → Out (State F)) → Prop) : Prop :=
  (∀ (F : Type) [Inhabited F] [DecidableEq F] (N : Numerics F), claim F N (execIn N)) ∧ claim Sample Config.num exec

end Sys2Proof.Machine
end

