-- ==== Sys2Proof/Machine/Asm.lean ====
section
/-! DEFINITION. The host's side of the command set: assembled lines (30_encoding.md R81, R82), the pseudo-instructions (R83), and a host
that issues lines one after the other, binding each command's results to names. -/

namespace Sys2Proof.Machine

/-- The assembler names of the parameters (10_state.md R24). -/
inductive ParamName where
  | midGain
  | midFreq
  | sideGain
  | sideFLo
  | sideFHi
  | tanhAmp
  | tanhSlope
  | satMix
  | sineAmp
  | sineFreq
  | makeUp
deriving DecidableEq, Repr

/-- The index of a parameter (R24). -/
def paramOfName : ParamName → Fin 11
  | .midGain => 0
  | .midFreq => 1
  | .sideGain => 2
  | .sideFLo => 3
  | .sideFHi => 4
  | .tanhAmp => 5
  | .tanhSlope => 6
  | .satMix => 7
  | .sineAmp => 8
  | .sineFreq => 9
  | .makeUp => 10

/-- How the name is written (R24). -/
def paramNameText : ParamName → String
  | .midGain => "MIDGAIN"
  | .midFreq => "MIDFREQ"
  | .sideGain => "SIDEGAIN"
  | .sideFLo => "SIDEFLO"
  | .sideFHi => "SIDEFHI"
  | .tanhAmp => "TANHAMP"
  | .tanhSlope => "TANHSLOPE"
  | .satMix => "SATMIX"
  | .sineAmp => "SINEAMP"
  | .sineFreq => "SINEFREQ"
  | .makeUp => "MAKEUP"

/-- A parameter in a line: a decimal index or an assembler name (R81). -/
inductive AsmParam where
  | index (p : BitVec 4)
  | named (n : ParamName)
deriving DecidableEq, Repr

/-- An `F` operand of a line (R81): a decimal literal, `mantissa` over ten to the power `places`, or a name bound by an earlier
arrow. -/
inductive AsmOperand where
  | decimal (mantissa : Int) (places : Nat)
  | name (x : String)
deriving DecidableEq, Repr

/-- One line of a program (R81). -/
inductive AsmLine where
  | rst
  | srate (fs : AsmOperand)
  | ctlWrp (p : AsmParam) (v : AsmOperand)
  | latch
  | cls (k : BitVec 4)
  | chp
  | bq (k : BitVec 4) (x : AsmOperand) (y : String)
  | enc (l r : AsmOperand) (m s : String)
  | dec (m s : AsmOperand) (l r : String)
  | sat (x : AsmOperand) (out : String)
  | proc (n : BitVec 32)
deriving DecidableEq, Repr

/-- The command word a parameter reference puts in `arg` (R82). -/
def AsmParam.arg : AsmParam → BitVec 4
  | .index p => p
  | .named n => BitVec.ofNat 4 (paramOfName n).val

/-- The command of a line (R81). -/
def AsmLine.instr : AsmLine → Instr
  | .rst => .rst
  | .srate _ => .srate
  | .ctlWrp p _ => .wrp p.arg
  | .latch => .latch
  | .cls k => .cls k
  | .chp => .chp
  | .bq k _ _ => .bq k
  | .enc _ _ _ _ => .enc
  | .dec _ _ _ _ => .dec
  | .sat _ _ => .sat
  | .proc _ => .proc

/-- An assembled line: the command word and the operand list, an unused operand written `-` (R82). -/
structure AsmWord where
  port : Agent
  cw : CommandWord
  opa : Option AsmOperand
  opb : Option AsmOperand
  len : Option (BitVec 32)
deriving DecidableEq, Repr

/-- The encoding of a line (R82, operands by R72). -/
def assemble (l : AsmLine) : AsmWord :=
  let base : AsmWord := { port := l.instr.agent, cw := encode l.instr, opa := none, opb := none, len := none }
  match l with
  | .rst => base
  | .srate fs => { base with opa := some fs }
  | .ctlWrp _ v => { base with opa := some v }
  | .latch => base
  | .cls _ => base
  | .chp => base
  | .bq _ x _ => { base with opa := some x }
  | .enc l r _ _ => { base with opa := some l, opb := some r }
  | .dec m s _ _ => { base with opa := some m, opb := some s }
  | .sat x _ => { base with opa := some x }
  | .proc n => { base with len := some n }

/-! How a line is written (R81). -/

/-- Decimal digits, at least `n` of them. -/
def padDigits (n : Nat) (k : Nat) : String :=
  let d := toString k
  String.ofList (List.replicate (n - d.length) '0') ++ d

/-- A decimal literal. -/
def decimalText (mantissa : Int) (places : Nat) : String :=
  let a := mantissa.natAbs
  let whole := toString (a / 10 ^ places)
  let sign := if mantissa < 0 then "-" else ""
  if places = 0 then sign ++ whole else sign ++ whole ++ "." ++ padDigits places (a % 10 ^ places)

/-- An operand's text. -/
def AsmOperand.text : AsmOperand → String
  | .decimal m d => decimalText m d
  | .name x => x

/-- A parameter's text. -/
def AsmParam.text : AsmParam → String
  | .index p => toString p.toNat
  | .named n => paramNameText n

/-- A line's text (R81): mnemonic, operands separated by commas, an arrow and the results' names, the prefix of a `CTL` line. -/
def AsmLine.text : AsmLine → String
  | .rst => "RST"
  | .srate fs => "SRATE " ++ fs.text
  | .ctlWrp p v => "CTL: WRP " ++ p.text ++ ", " ++ v.text
  | .latch => "LATCH"
  | .cls k => "CLS " ++ toString k.toNat
  | .chp => "CHP"
  | .bq k x y => "BQ " ++ toString k.toNat ++ ", " ++ x.text ++ " -> " ++ y
  | .enc l r m s => "ENC " ++ l.text ++ ", " ++ r.text ++ " -> " ++ m ++ ", " ++ s
  | .dec m s l r => "DEC " ++ m.text ++ ", " ++ s.text ++ " -> " ++ l ++ ", " ++ r
  | .sat x out => "SAT " ++ x.text ++ " -> " ++ out
  | .proc n => "PROC " ++ toString n.toNat

/-! Pseudo-instructions (R83). -/

/-- `COEFS`. -/
def coefsLines : List AsmLine := [.cls 0#4, .chp, .cls 2#4]

/-- `BEGIN`. -/
def beginLines : List AsmLine := .latch :: coefsLines

/-- `FRAME l, r -> lo, ro`, with the expansion's own names for what passes between its commands, as R83 writes them. They are names like
any other: they stay bound after it, and a result that the line itself calls `rd` is rebound inside it (DESIGN CHOICE, log 29). -/
def frameLines (l r : AsmOperand) (lo ro : String) : List AsmLine :=
  [ .enc l r "m" "s",
    .bq 0#4 (.name "m") "m1",
    .bq 1#4 (.name "s") "s1",
    .bq 2#4 (.name "s1") "s2",
    .dec (.name "m1") (.name "s2") "ld" "rd",
    .sat (.name "ld") lo,
    .sat (.name "rd") ro ]

/-- `WRPALL v0, ..., v10`, in index order. -/
def wrpAllLines (v : Vector AsmOperand 11) : List AsmLine :=
  (List.finRange 11).map fun i => .ctlWrp (.index (BitVec.ofNat 4 i.val)) v[i]

variable {F : Type} [Inhabited F] [DecidableEq F]

/-! A host that issues lines in their total order (R81, 20_memory.md R58). -/

/-- The names bound so far, the latest first: a name bound more than once stands for its latest value (DESIGN CHOICE, log 29: R81 speaks of
"a name bound by an earlier `->`" and not of two). -/
abbrev AsmEnv (F : Type) : Type := List (String × F)

/-- What an operand stands for: the literal rounded once into `F`, or the value last bound to the name (log 29); none for a name not bound
(log 25). -/
def AsmOperand.value (N : Numerics F) (env : AsmEnv F) : AsmOperand → Option F
  | .decimal m d => some (N.lit ((m : Rat) / (10 : Rat) ^ d))
  | .name x => env.lookup x

/-- An operand on the port: one that is not used may hold anything (R72) and is put as the default word (zero for `Sample`). -/
def portValue (N : Numerics F) (env : AsmEnv F) : Option AsmOperand → Option F
  | none => some default
  | some x => x.value N env

/-- The names bound after a line has completed in state `t` (R73, R81): the first name to `RSA`, then the second to `RSB`. A line that binds
both results to one name (`ENC 1, -1 -> m, m`) is a line, and the name then stands for the second result, `RSB`: DESIGN CHOICE, log 29,
since R81 is silent on it. -/
def bindResults (l : AsmLine) (t : State F) (env : AsmEnv F) : AsmEnv F :=
  let bind (x : String) (r : Option F) (e : AsmEnv F) : AsmEnv F :=
    match r with
    | some v => (x, v) :: e
    | none => e
  match l with
  | .bq _ _ y => bind y t.rsa env
  | .enc _ _ m s => bind s t.rsb (bind m t.rsa env)
  | .dec _ _ x y => bind y t.rsb (bind x t.rsa env)
  | .sat _ out => bind out t.rsa env
  | .rst => env
  | .srate _ => env
  | .ctlWrp _ _ => env
  | .latch => env
  | .cls _ => env
  | .chp => env
  | .proc _ => env

/-- One line issued on its port in a state, literals rounded in the numerics `N` and commands of `AUD` run by `run`; none if an operand's
name is not bound (such a line is no line of a program: DESIGN CHOICE, log 25). The names of its results are bound after it has completed,
so an operand of the same line never means them (R81: "earlier"). -/
def issueLine (N : Numerics F) (run : Instr → State F → Out (State F)) (l : AsmLine) (env : AsmEnv F) (s : State F) :
    Option (Out (AsmEnv F × State F)) :=
  let w := assemble l
  match portValue N env w.opa, portValue N env w.opb with
  | some a, some b =>
    let o :=
      match w.port with
      | .ctl => takeParam ⟨w.cw, a⟩ s
      | .aud => takeCommand run ⟨w.cw, a, b, w.len.getD 0#32⟩ s
    some (mapOut (fun t => (bindResults l t env, t)) o)
  | _, _ => none

/-- Lines issued one after the other. -/
def issueLines (N : Numerics F) (run : Instr → State F → Out (State F)) : List AsmLine → AsmEnv F → State F → Option (Out (AsmEnv F × State F))
  | [], env, s => some (.next (env, s))
  | l :: rest, env, s =>
    match issueLine N run l env s with
    | some (.next (env', t)) => issueLines N run rest env' t
    | some (.fault r) => some (.fault r)
    | some (.refused r) => some (.refused r)
    | none => none

/-- The expansion's part for frame `n` of a block (45_chain_commands.md R162): the host reads the frame from the buffer, issues `FRAME`, and
writes the results back in place. -/
def expandFrame (N : Numerics F) (run : Instr → State F → Out (State F)) (n : Nat) (s : State F) : Option (Out (State F)) :=
  let env : AsmEnv F := [("l", bufRead s.buf (bufAddr 0 n)), ("r", bufRead s.buf (bufAddr 1 n))]
  match issueLines N run (frameLines (.name "l") (.name "r") "lo" "ro") env s with
  | some (.next (e, t)) =>
    match e.lookup "lo", e.lookup "ro" with
    | some lo, some ro => some (andThen (hostWrite (bufAddr 0 n) lo t) fun u => hostWrite (bufAddr 1 n) ro u)
    | _, _ => none
  | some (.fault r) => some (.fault r)
  | some (.refused r) => some (.refused r)
  | none => none

/-- The expansion's frames from `n` on, `k` of them. -/
def expandFrames (N : Numerics F) (run : Instr → State F → Out (State F)) : Nat → Nat → State F → Option (Out (State F))
  | 0, _, s => some (.next s)
  | k + 1, n, s =>
    match expandFrame N run n s with
    | some (.next t) => expandFrames N run k (n + 1) t
    | other => other

/-- The expansion of `PROC` on a block of so many frames (R162): `BEGIN`, then `FRAME` for each frame of the block. -/
def expandProc (N : Numerics F) (run : Instr → State F → Out (State F)) (frames : Nat) (s : State F) : Option (Out (State F)) :=
  match issueLines N run beginLines [] s with
  | some (.next (_, t)) => expandFrames N run frames 0 t
  | some (.fault r) => some (.fault r)
  | some (.refused r) => some (.refused r)
  | none => none

end Sys2Proof.Machine
end

