-- ==== Sys2Proof/Machine/AsmText.lean ====
section
/-! DEFINITION. Lines as text (30_encoding.md R81): from characters to tokens, from tokens to the lines of Machine/Asm.lean, a
pseudo-instruction to its expansion (R83). What R81 leaves open is the model's: which characters make a name (log 25), which texts are a
decimal literal (log 27), what separates words (log 28), which names a line may bind (log 29). -/

namespace Sys2Proof.Machine

/-- What a line is made of. -/
inductive AsmToken where
  | word (cs : List Char)
  | comma
  | arrow
deriving DecidableEq, Repr

/-- Characters that separate words and mean nothing else: space and tab (DESIGN CHOICE, log 28: R81 does not speak of white space). -/
def isBlank (c : Char) : Bool := c = ' ' || c = '\t'

/-- A finished word, if there is one. -/
def flushWord (acc : List Char) (rest : List AsmToken) : List AsmToken :=
  match acc with
  | [] => rest
  | _ :: _ => .word acc.reverse :: rest

/-- The tokens of a line, with the word read so far (backwards); a comment starts with `;` (R81). Blanks may stand before, between and
after words, commas and arrows, and are needed only between two words (DESIGN CHOICE, log 28). -/
def tokensFrom (acc : List Char) : List Char → List AsmToken
  | [] => flushWord acc []
  | '-' :: '>' :: rest => flushWord acc (.arrow :: tokensFrom [] rest)
  | c :: rest =>
    if c = ';' then flushWord acc []
    else if c = ',' then flushWord acc (.comma :: tokensFrom [] rest)
    else if isBlank c then flushWord acc (tokensFrom [] rest)
    else tokensFrom (c :: acc) rest

/-- The decimal digits of a natural number, after a value read so far. -/
def digitsFrom (v : Nat) : List Char → Option Nat
  | [] => some v
  | c :: rest => if c.isDigit then digitsFrom (10 * v + (c.toNat - '0'.toNat)) rest else none

/-- A decimal natural number: at least one digit, leading zeros allowed (DESIGN CHOICE, log 27). -/
def parseNat : List Char → Option Nat
  | [] => none
  | c :: rest => digitsFrom 0 (c :: rest)

/-- The characters before the first point, and those after it if there is one. -/
def splitPoint : List Char → List Char × Option (List Char)
  | [] => ([], none)
  | c :: rest =>
    if c = '.' then ([], some rest)
    else
      let r := splitPoint rest
      (c :: r.1, r.2)

/-- A decimal literal without sign: digits, and after a point more digits, at least one on each side; no exponent (DESIGN CHOICE, log 27:
R81 says "a decimal literal" and no more). -/
def parseUnsigned (cs : List Char) : Option (Nat × Nat) :=
  match splitPoint cs with
  | (whole, none) => (parseNat whole).map fun v => (v, 0)
  | (whole, some fraction) =>
    match parseNat whole, parseNat fraction with
    | some _, some _ => (parseNat (whole ++ fraction)).map fun v => (v, fraction.length)
    | _, _ => none

/-- A name: a letter, then letters, digits and underscores (DESIGN CHOICE, log 25); any such word, a mnemonic or a parameter's name too (log
29). -/
def isName : List Char → Bool
  | [] => false
  | c :: rest => c.isAlpha && rest.all fun d => d.isAlphanum || d = '_'

/-- An `F` operand: a decimal literal or a name (R81). A literal may have a minus sign, directly before its digits, and no plus sign
(DESIGN CHOICE, log 27). -/
def parseOperand (cs : List Char) : Option AsmOperand :=
  match cs with
  | '-' :: rest => (parseUnsigned rest).map fun v => .decimal (-(v.1 : Int)) v.2
  | _ =>
    match parseUnsigned cs with
    | some v => some (.decimal v.1 v.2)
    | none => if isName cs then some (.name (String.ofList cs)) else none

/-- The eleven names of 10_state.md R24. -/
def paramNames : List ParamName :=
  [.midGain, .midFreq, .sideGain, .sideFLo, .sideFHi, .tanhAmp, .tanhSlope, .satMix, .sineAmp, .sineFreq, .makeUp]

/-- An index that the field `arg` can hold. -/
def parseIndex (cs : List Char) : Option (BitVec 4) :=
  match parseNat cs with
  | some v => if v < 16 then some (BitVec.ofNat 4 v) else none
  | none => none

/-- A parameter: a decimal index or an assembler name (R81). -/
def parseParam (cs : List Char) : Option AsmParam :=
  match parseIndex cs with
  | some p => some (.index p)
  | none => (paramNames.find? fun n => String.ofList cs = paramNameText n).map .named

/-- A block length that `LEN` can hold (R70); a longer number makes the text no line (DESIGN CHOICE, log 27). -/
def parseLen (cs : List Char) : Option (BitVec 32) :=
  match parseNat cs with
  | some v => if v < 2 ^ 32 then some (BitVec.ofNat 32 v) else none
  | none => none

/-- Words separated by commas, at least one. -/
def parseList : List AsmToken → Option (List (List Char))
  | [.word w] => some [w]
  | .word w :: .comma :: rest => (parseList rest).map fun ws => w :: ws
  | _ => none

/-- The tokens before the first arrow, and those after it if there is one. -/
def splitArrow : List AsmToken → List AsmToken × Option (List AsmToken)
  | [] => ([], none)
  | .arrow :: rest => ([], some rest)
  | t :: rest =>
    let r := splitArrow rest
    (t :: r.1, r.2)

/-- Result names: each is a name. The two of one line may be the same, and any may be bound already (DESIGN CHOICE, log 29). -/
def parseResults (ts : List AsmToken) : Option (List String) :=
  match parseList ts with
  | some ws => if ws.all isName then some (ws.map String.ofList) else none
  | none => none

/-- The operands and result names after a mnemonic; a command without operands has none, one without results no arrow. -/
def parseArguments (ts : List AsmToken) : Option (List (List Char) × List String) :=
  match splitArrow ts with
  | ([], none) => some ([], [])
  | (before, none) => (parseList before).map fun ws => (ws, [])
  | (before, some after) =>
    match parseList before, parseResults after with
    | some ws, some rs => some (ws, rs)
    | _, _ => none

/-- All operands of a list. -/
def parseOperands : List (List Char) → Option (List AsmOperand)
  | [] => some []
  | w :: ws =>
    match parseOperand w, parseOperands ws with
    | some x, some xs => some (x :: xs)
    | _, _ => none

/-- Keep lines whose commands are well-formed (R75; R81: "k = 0 or 2", "k = 0, 1 or 2"). -/
def keepLegal (ls : List AsmLine) : Option (List AsmLine) :=
  if ls.all fun l => WellFormed l.instr then some ls else none

/-- The lines a mnemonic of `AUD` with its arguments stands for (R81, R83). -/
def audLines (m : String) (ws : List (List Char)) (rs : List String) : Option (List AsmLine) :=
  if m = "RST" then (match ws, rs with | [], [] => some [.rst] | _, _ => none)
  else if m = "SRATE" then (match ws, rs with | [x], [] => (parseOperand x).map fun x => [.srate x] | _, _ => none)
  else if m = "LATCH" then (match ws, rs with | [], [] => some [.latch] | _, _ => none)
  else if m = "CLS" then (match ws, rs with | [k], [] => (parseIndex k).map fun k => [.cls k] | _, _ => none)
  else if m = "CHP" then (match ws, rs with | [], [] => some [.chp] | _, _ => none)
  else if m = "BQ" then
    (match ws, rs with
      | [k, x], [y] =>
        (match parseIndex k, parseOperand x with
          | some k, some x => some [.bq k x y]
          | _, _ => none)
      | _, _ => none)
  else if m = "ENC" then
    (match parseOperands ws, rs with | some [l, r], [m, s] => some [.enc l r m s] | _, _ => none)
  else if m = "DEC" then
    (match parseOperands ws, rs with | some [m, s], [l, r] => some [.dec m s l r] | _, _ => none)
  else if m = "SAT" then
    (match parseOperands ws, rs with | some [x], [y] => some [.sat x y] | _, _ => none)
  else if m = "PROC" then (match ws, rs with | [n], [] => (parseLen n).map fun n => [.proc n] | _, _ => none)
  else if m = "COEFS" then (match ws, rs with | [], [] => some coefsLines | _, _ => none)
  else if m = "BEGIN" then (match ws, rs with | [], [] => some beginLines | _, _ => none)
  else if m = "FRAME" then
    (match parseOperands ws, rs with | some [l, r], [lo, ro] => some (frameLines l r lo ro) | _, _ => none)
  else if m = "WRPALL" then
    (match parseOperands ws, rs with
      | some [v0, v1, v2, v3, v4, v5, v6, v7, v8, v9, v10], [] => some (wrpAllLines #v[v0, v1, v2, v3, v4, v5, v6, v7, v8, v9, v10])
      | _, _ => none)
  else none

/-- The one command of `CTL` (R81). -/
def ctlLines (m : String) (ws : List (List Char)) (rs : List String) : Option (List AsmLine) :=
  if m = "WRP" then
    (match ws, rs with
      | [p, v], [] =>
        (match parseParam p, parseOperand v with
          | some p, some v => some [.ctlWrp p v]
          | _, _ => none)
      | _, _ => none)
  else none

/-- What follows `CTL:` on its line, when a word starts with it; a blank after the colon is not needed (R81: "A line that starts with
`CTL:`"), and none may stand before the colon (DESIGN CHOICE, log 28). -/
def afterCtl (w : List Char) (rest : List AsmToken) : Option (List AsmToken) :=
  match w with
  | 'C' :: 'T' :: 'L' :: ':' :: more => some (flushWord more.reverse rest)
  | _ => none

/-- The lines a line of text stands for: none of them for a blank or comment line, several for a pseudo-instruction; no answer for text
that is no line. That a blank line is a line with no command is the model's (log 28). -/
def parseLine (text : String) : Option (List AsmLine) :=
  match tokensFrom [] text.toList with
  | [] => some []
  | .word w :: rest =>
    match afterCtl w rest with
    | some (.word m :: rest) =>
      (match parseArguments rest with
        | some (ws, rs) => (ctlLines (String.ofList m) ws rs).bind keepLegal
        | none => none)
    | some _ => none
    | none =>
      (match parseArguments rest with
        | some (ws, rs) => (audLines (String.ofList w) ws rs).bind keepLegal
        | none => none)
  | _ => none

/-- A program: its lines in order (R81). -/
def parseProgram : List String → Option (List AsmLine)
  | [] => some []
  | t :: rest =>
    match parseLine t, parseProgram rest with
    | some ls, some more => some (ls ++ more)
    | _, _ => none

end Sys2Proof.Machine
end

