-- ==== Sys2Proof/Machine/ChainSpec.lean ====
section
/-! DEFINITION. The chain as functions of its inputs, for any numerics: what one frame and one block compute from the coefficients, the
snapshot and the filter state (45_chain_commands.md R161, R164). The machine's `PROC` is stated against them; it does not run on
them. -/

namespace Sys2Proof.Machine

variable {F : Type}

/-- What a frame reads beside its samples: the three coefficient sets, the make-up gain and the saturator's parameters. -/
structure ChainParams (F : Type) where
  mid : Coef F
  high : Coef F
  side : Coef F
  makeUp : F
  sat : SatParams F

/-- The three filter states. -/
structure ChainState (F : Type) where
  z0 : ZPair F
  z1 : ZPair F
  z2 : ZPair F

/-- One frame of R161: encode, mid shelf, side high-pass, side shelf, decode, saturate both channels. -/
def chainFrame {F : Type} (N : Numerics F) (q : ChainParams F) (z : ChainState F) (x : F × F) : (F × F) × ChainState F :=
  let ms := midSideEncode N x.1 x.2
  let r0 := biquadStep N q.mid z.z0 ms.1
  let r1 := biquadStep N q.high z.z1 ms.2
  let r2 := biquadStep N q.side z.z2 r1.1
  let lr := midSideDecode N q.makeUp r0.1 r2.1
  ((saturate N q.sat lr.1, saturate N q.sat lr.2), ⟨r0.2, r1.2, r2.2⟩)

/-- A sequence of samples through one stage, in order (R100, R102). -/
def stageRun {F : Type} (N : Numerics F) (c : Coef F) : List F → ZPair F → List F × ZPair F
  | [], z => ([], z)
  | x :: xs, z =>
    let r := biquadStep N c z x
    let rest := stageRun N c xs r.2
    (r.1 :: rest.1, rest.2)

/-- The filter state of a stage before sample `n` of an input sequence (R103). -/
def stageStateAt {F : Type} (N : Numerics F) (c : Coef F) (z : ZPair F) (x : Nat → F) : Nat → ZPair F
  | 0 => z
  | n + 1 => (biquadStep N c (stageStateAt N c z x n) (x n)).2

/-- The output of a stage at sample `n` (R103). -/
def stageOutAt {F : Type} (N : Numerics F) (c : Coef F) (z : ZPair F) (x : Nat → F) (n : Nat) : F :=
  (biquadStep N c (stageStateAt N c z x n) (x n)).1

/-- A block frame by frame through all stages, the order of R158. -/
def frameMajor {F : Type} (N : Numerics F) (q : ChainParams F) : List (F × F) → ChainState F → List (F × F) × ChainState F
  | [], z => ([], z)
  | x :: xs, z =>
    let r := chainFrame N q z x
    let rest := frameMajor N q xs r.2
    (r.1 :: rest.1, rest.2)

/-- A block stage by stage over all frames, the other order of R164. -/
def stageMajor {F : Type} (N : Numerics F) (q : ChainParams F) (xs : List (F × F)) (z : ChainState F) : List (F × F) × ChainState F :=
  let ms := xs.map fun x => midSideEncode N x.1 x.2
  let r0 := stageRun N q.mid (ms.map Prod.fst) z.z0
  let r1 := stageRun N q.high (ms.map Prod.snd) z.z1
  let r2 := stageRun N q.side r1.1 z.z2
  let lr := (r0.1.zip r2.1).map fun y => midSideDecode N q.makeUp y.1 y.2
  (lr.map fun y => (saturate N q.sat y.1, saturate N q.sat y.2), ⟨r0.2, r1.2, r2.2⟩)

/-- The coefficients and parameters a block runs with, from a parameter file and a sample rate (R158: `ACT <- P`, then the three
coefficient computations; 10_state.md R22, R25, R26). -/
def blockParams (N : Numerics F) (p : Vector F 11) (fs : F) : ChainParams F :=
  { mid := shelfCoef N p[0] p[1] fs
    high := highPassCoef N p[highPassFreq] fs
    side := shelfCoef N p[2] p[shelfFreq .side] fs
    makeUp := p[10]
    sat := { ampA := p[5], slope := p[6], mix := p[7], ampB := p[8], freq := p[9] } }

/-- The cutoffs a block reads are legal (R159). -/
def blockCutoffsOk (N : Numerics F) (p : Vector F 11) (fs : F) : Bool :=
  cutoffOk N p[1] fs && cutoffOk N p[highPassFreq] fs && cutoffOk N p[shelfFreq .side] fs

/-- The filter states of a register file. -/
def chainStateOf (z : Vector (ZPair F) 3) : ChainState F := ⟨z[0], z[1], z[2]⟩

/-- Filter states as a register file. -/
def zOf (z : ChainState F) : Vector (ZPair F) 3 := #v[z.z0, z.z1, z.z2]

variable [Inhabited F] [DecidableEq F]

/-- Frame `n` of the buffer (20_memory.md R51). -/
def frameAt (b : List (Nat × F)) (n : Nat) : F × F := (bufRead b (bufAddr 0 n), bufRead b (bufAddr 1 n))

/-- The buffer with frame `n` overwritten, channel 0 first (R54). -/
def putFrame (b : List (Nat × F)) (n : Nat) (y : F × F) : List (Nat × F) :=
  bufWrite (bufWrite b (bufAddr 0 n) y.1) (bufAddr 1 n) y.2

/-- Frame `n` processed in place. -/
def chainInPlace (N : Numerics F) (q : ChainParams F) (c : List (Nat × F) × ChainState F) (n : Nat) :
    List (Nat × F) × ChainState F :=
  let r := chainFrame N q c.2 (frameAt c.1 n)
  (putFrame c.1 n r.1, r.2)

/-- The state `PROC` leaves when no `CTL` write falls inside it (R158, R161, R183). -/
def afterProc (N : Numerics F) (s : State F) (fs : F) : State F :=
  let q := blockParams N s.p fs
  let r := (List.range s.len.toNat).foldl (chainInPlace N q) (s.buf, chainStateOf s.z)
  { s with
    act := s.p.map some
    coef := #v[some q.mid, some q.high, some q.side]
    z := zOf r.2
    buf := r.1
    seq := .idle
    latches := s.latches + 1 }

/-- How many micro-steps a command takes (R160): eleven for `LATCH`, `14 + 11 * N` for `PROC` with `LEN = N >= 1`, one for every other
command; an empty `PROC` counts as one (log 14). -/
def microSteps (i : Instr) (len : BitVec 32) : Nat :=
  match i with
  | .latch => 11
  | .proc => if len = 0#32 then 1 else 14 + 11 * len.toNat
  | .rst => 1
  | .srate => 1
  | .wrp _ => 1
  | .cls _ => 1
  | .chp => 1
  | .bq _ => 1
  | .enc => 1
  | .dec => 1
  | .sat => 1

end Sys2Proof.Machine
end

