-- ==== Sys2Proof/Machine/Reference.lean ====
section
/-! DEFINITION. `NUM_R`, the reference numerics of 00_scope.md R8: the carrier is the real numbers and every member is the exact real
function. The block's formulas are stated over it in Certificates/Slice0/Obligations.lean. It may be passed to the machine (`execIn`, `machineIn` of
Machine/AnyNumerics.lean); `exec` and `step` run on the open `Config.num`. -/

namespace Sys2Proof

/-- `NUM_R` (R8). Where a member has no real value (a division by zero, a square root of a negative number) the library's total
function answers 0, which no statement leans on (DESIGN CHOICE, log 24). -/
noncomputable def Numerics.real : Numerics ℝ where
  lit q := (q : ℝ)
  PI := Real.pi
  Q := 1 / Real.sqrt 2
  add a b := a + b
  sub a b := a - b
  mul a b := a * b
  div a b := a / b
  neg a := -a
  sqrt a := Real.sqrt a
  sin a := Real.sin a
  cos a := Real.cos a
  tanh a := Real.tanh a
  pow10 a := (10 : ℝ) ^ a
  lt a b := decide (a < b)
  le a b := decide (a ≤ b)

end Sys2Proof
end

