-- ==== Sys2Proof/Machine/StageRun.lean ====
section
/-! DEFINITION. Runs of the command `BQ k` on a sequence of samples, cut into calls (40_biquad.md R102). -/

namespace Sys2Proof.Machine

/-- `BQ k` on each sample in order, the sample on the port: what the result port delivered each time, and the state after the last. -/
def bqRun (k : BitVec 4) : List Sample → State → Out (List (Option Sample) × State)
  | [], s => .next ([], s)
  | x :: xs, s =>
    andThen (exec (.bq k) { s with opa := x }) fun t =>
    andThen (bqRun k xs t) fun r => .next (t.rsa :: r.1, r.2)

/-- Several such calls one after the other. -/
def bqCalls (k : BitVec 4) : List (List Sample) → State → Out (List (Option Sample) × State)
  | [], s => .next ([], s)
  | c :: cs, s =>
    andThen (bqRun k c s) fun r =>
    andThen (bqCalls k cs r.2) fun q => .next (r.1 ++ q.1, q.2)

end Sys2Proof.Machine
end

