-- ==== Sys2Proof/Safety.lean ====
section
/-! DEFINITION. What a good run is, in the terms the statements use: the end of a run (00_scope.md R16), the duties of the host
(60_exceptions.md R182), and what every step keeps. -/

namespace Sys2Proof

variable {F : Type}

/-- A command of `AUD`, not a buffer access of the host. -/
def isCommand : Machine.AudInput F → Bool
  | .cmd _ => true
  | .bufWrite _ _ => false
  | .bufRead _ => false

/-- A run has ended: the last `AUD` command has completed and `SEQ = IDLE` (R16). A `CTL` write or a buffer access of the host that is
still to come does not belong to the run. -/
def Ended (s : Machine.State F) : Bool := s.audIn.all (fun a => !isCommand a) && (s.seq == .idle)

/-- `k` steps from `s` all complete: no fault, no refusal (R11: a refused operation is no good end of a run). -/
def Safe (k : Nat) (s : Machine.State) : Prop := ∃ t, core.run k s = .next t

/-- Nothing is pending on the parameter port: no `CTL` write falls inside what runs next. -/
def Quiet (s : Machine.State F) : Prop := s.ctlIn = []

/-- The snapshot is written whole or not at all (45_chain_commands.md R154, R151). -/
def SnapshotWhole (s : Machine.State F) : Prop := (∀ i : Fin 11, s.act[i] = none) ∨ (∀ i : Fin 11, s.act[i].isSome = true)

/-- A coefficient set is written only after a sample rate and a snapshot have been (70_reset_and_hazards.md R194). -/
def CoefAfterRate (s : Machine.State F) : Prop :=
  ∀ k : Fin 3, s.coef[k].isSome = true → s.fs.isSome = true ∧ ∀ i : Fin 11, s.act[i].isSome = true

/-- What holds between any two steps of a constructed block: it is idle (10_state.md R33), its buffer is in canonical form, and its
unwritten registers are those R194 says. -/
def StepInv [Inhabited F] [DecidableEq F] (s : Machine.State F) : Prop :=
  s.built = true ∧ s.seq = .idle ∧ Machine.bufWf s.buf = true ∧ SnapshotWhole s ∧ CoefAfterRate s

/-- A transaction that the parameter port takes: its word is a legal `WRP` (30_encoding.md R77). -/
def LegalWrite (tx : Machine.ParamTx F) : Prop := ∃ a, decodeWord tx.cw = .ok (.wrp a)

/-- The pending `CTL` writes that write parameter `i` write these values. -/
def WritesTo (q : List (Nat × Machine.ParamTx F)) (i : Fin 11) (v : F) : Prop :=
  ∃ e ∈ q, ∃ a, decodeWord e.2.cw = .ok (.wrp a) ∧ Machine.paramIndex a = some i ∧ v = e.2.opa

end Sys2Proof
end

