-- ==== Sys2Proof/Certificates/Slice0/Obligations.lean ====
section
/-! DEFINITION. The statements. Each names the rules of spec/ it formalises. Statements about the machine hold for every numerics, buffer
size, side-frequency assignment, snapshot order and power-on contents, since those are opaque constants of Config. Where a statement has a
hypothesis that asks for the order of two values (a legal rate, a legal cutoff, a block that completes), which the open numerics leave
open, it is made with `InAnyNumerics`: of `execIn N` for every numerics `N` over every carrier `F`, `NUM_R` among them, so that a concrete
`N` can show the hypothesis met, and of `exec` itself; `run` is the one or the other. Statements over `Numerics.real` are about the block's formulas in the reference numerics
`NUM_R` (00_scope.md R8). The fields `built`, `latches` and the ports' and queues' fields of State are the model's own (logs 5, 7 to
10). -/

open Sys2Proof Sys2Proof.Machine

/-! ## Encoding (30_encoding.md) -/

/-- R74, R76, R82: the words of any sequence of well-formed commands decode, one word a command, to those commands, and leave what
follows them. -/
def Obligations.EncodedStreamDecodes : Prop :=
  ∀ (is : List Instr) (rest : List (BitVec 8)), (∀ i ∈ is, WellFormed i = true) →
    decodeMany is.length (is.map encode ++ rest) = .ok (is, rest)

/-- R76, R80: a word the decoder accepts is the encoding of what it reads, and that command is well-formed: no word is an alias. -/
def Obligations.DecodedWordIsItsEncoding : Prop :=
  ∀ (w : BitVec 8) (i : Instr), decodeWord w = .ok i → WellFormed i = true ∧ encode i = w

/-- R75: the `arg` constraints of every command, as the decoder applies them: with `op` and `arg` in their places (R71), the word decodes
exactly when the constraint of its `op` holds. -/
def Obligations.ArgConstraintsHold : Prop :=
  ∀ op arg : BitVec 4, (∃ i, decodeWord (op ++ arg) = .ok i) ↔
    ((op ∈ [0x0#4, 0x1#4, 0x3#4, 0x5#4, 0x7#4, 0x8#4, 0x9#4, 0xA#4] ∧ arg = 0#4) ∨ (op = 0x2#4 ∧ arg.toNat ≤ 10) ∨
      (op = 0x4#4 ∧ (arg = 0#4 ∨ arg = 2#4)) ∨ (op = 0x6#4 ∧ (arg = 0#4 ∨ arg = 1#4 ∨ arg = 2#4)))

/-- R74: words written out from the table, and the count of the legal words: 24 of 256. -/
def Obligations.TableWordsDecode : Prop :=
  decodeWord 0x00#8 = .ok .rst ∧ decodeWord 0x10#8 = .ok .srate ∧ decodeWord 0x20#8 = .ok (.wrp 0#4) ∧
  decodeWord 0x2A#8 = .ok (.wrp 10#4) ∧ decodeWord 0x30#8 = .ok .latch ∧ decodeWord 0x40#8 = .ok (.cls 0#4) ∧
  decodeWord 0x42#8 = .ok (.cls 2#4) ∧ decodeWord 0x50#8 = .ok .chp ∧ decodeWord 0x61#8 = .ok (.bq 1#4) ∧
  decodeWord 0x70#8 = .ok .enc ∧ decodeWord 0x80#8 = .ok .dec ∧ decodeWord 0x90#8 = .ok .sat ∧ decodeWord 0xA0#8 = .ok .proc ∧
  ((List.range 256).filter fun n => legalWord (BitVec.ofNat 8 n)).length = 24

/-- R81, R82: the three example lines, read from their text, and their words and operands (lines as terms are the model's form, log 25). -/
def Obligations.ExampleLinesAssemble : Prop :=
  parseLine "BQ 2, 0.5 -> y" = some [.bq 2#4 (.decimal 5 1) "y"] ∧
  parseLine "CTL: WRP MAKEUP, -3" = some [.ctlWrp (.named .makeUp) (.decimal (-3) 0)] ∧
  parseLine "PROC 64" = some [.proc 64#32] ∧
  assemble (.bq 2#4 (.decimal 5 1) "y") = { port := .aud, cw := 0x62#8, opa := some (.decimal 5 1), opb := none, len := none } ∧
  assemble (.ctlWrp (.named .makeUp) (.decimal (-3) 0)) =
    { port := .ctl, cw := 0x2A#8, opa := some (.decimal (-3) 0), opb := none, len := none } ∧
  assemble (.proc 64#32) = { port := .aud, cw := 0xA0#8, opa := none, opb := none, len := some 64#32 }

/-! ## Reset and the boundary commands (10_state.md, 45_chain_commands.md) -/

/-- 10_state.md R36, for the elements `RST` gives a value: the state after reset has exactly these. -/
def Obligations.ResetHasTheTableValues : Prop :=
  let N := Config.num
  (∀ k : Fin 3, State.reset.z[k] = ⟨N.lit 0, N.lit 0⟩ ∧ State.reset.coef[k] = none) ∧
  (∀ p : Fin 11, State.reset.act[p] = none) ∧
  State.reset.p = #v[N.lit (5 / 2), N.lit 250, N.lit 6, N.lit 140, N.lit 4000, N.lit 50, N.lit 7, N.lit 50, N.lit 50, N.lit 60, N.lit 0] ∧
  State.reset.fs = none ∧ State.reset.seq = .idle

/-- R151: `RST` (word 0x00, agent `AUD`) is accepted in every state, clears the filter state, unwrites coefficients, snapshot and sample
rate, loads the defaults, and touches nothing else, the buffer included; a second `RST` changes nothing more. The field `built` is the
model's own (log 10). -/
def Obligations.RstConstructsTheChain : Prop :=
  decodeWord 0x00#8 = .ok .rst ∧ Instr.agent .rst = .aud ∧
  ∀ s : State, ∃ t, exec .rst s = .next t ∧ exec .rst t = .next t ∧
    t = { s with
      z := Vector.replicate 3 ⟨Config.num.lit 0, Config.num.lit 0⟩
      coef := Vector.replicate 3 none
      act := Vector.replicate 11 none
      p := #v[Config.num.lit (5 / 2), Config.num.lit 250, Config.num.lit 6, Config.num.lit 140, Config.num.lit 4000, Config.num.lit 50,
        Config.num.lit 7, Config.num.lit 50, Config.num.lit 50, Config.num.lit 60, Config.num.lit 0]
      fs := none
      seq := .idle
      built := true }

/-- R152: `SRATE fs` (word 0x10, agent `AUD`) writes `FS` and nothing else when `0 < fs`, and is refused (V2) otherwise. The
last clause is the rule's worked example, `SRATE 48000`, in every numerics in which 48000 is above 0. -/
def Obligations.SrateSetsTheRate : Prop :=
  InAnyNumerics fun F _ _ N run =>
  decodeWord 0x10#8 = .ok .srate ∧ Instr.agent .srate = .aud ∧
  (∀ s : State F, N.lt (N.lit 0) s.opa = true → run .srate s = .next { s with fs := some s.opa }) ∧
  (∀ s : State F, N.lt (N.lit 0) s.opa = false → run .srate s = .refused .v2SampleRate) ∧
  (N.lt (N.lit 0) (N.lit 48000) = true → ∀ s : State F, s.opa = N.lit 48000 → run .srate s = .next { s with fs := some (N.lit 48000) })

/-- R153: `WRP p` (word 0x20 + p, agent `CTL`) stores its operand whole, unchecked, in `P[p]` and changes nothing else; R80: an index 11 to
15 is refused (V5). -/
def Obligations.WrpStoresOneParameter : Prop :=
  (∀ p : Fin 11, decodeWord (BitVec.ofNat 8 (0x20 + p.val)) = .ok (.wrp (BitVec.ofNat 4 p.val)) ∧
    Instr.agent (.wrp (BitVec.ofNat 4 p.val)) = .ctl ∧
    ∀ s : State, exec (.wrp (BitVec.ofNat 4 p.val)) s = .next { s with p := s.p.set p s.pdata }) ∧
  ∀ (a : BitVec 4) (s : State), 10 < a.toNat → exec (.wrp a) s = .refused .v5Reserved

/-- R154, with no `CTL` write inside: `LATCH` (word 0x30) makes `ACT = P`, whatever the order of its eleven reads, and changes nothing else
of the block. The count `latches` is the model's own (log 5). -/
def Obligations.LatchCopiesTheParameters : Prop :=
  decodeWord 0x30#8 = .ok .latch ∧ Instr.agent .latch = .aud ∧
  ∀ s : State, Quiet s →
    exec .latch s = .next { s with act := s.p.map some, seq := .idle, latches := s.latches + 1 }

/-- R154, R57 and R59 (items 1, 5, 6): whatever `CTL` writes fall inside, a `LATCH` that completes leaves in each `ACT[p]` the old `P[p]` or
the whole operand of one `WRP p`; `FS`, `COEF`, `Z` and the buffer are as before. -/
def Obligations.LatchTearsNothing : Prop :=
  ∀ s t : State, exec .latch s = .next t →
    (∀ p : Fin 11, ∃ v, t.act[p] = some v ∧ (v = s.p[p] ∨ WritesTo s.ctlIn p v)) ∧
    (∀ p : Fin 11, t.p[p] = s.p[p] ∨ WritesTo s.ctlIn p t.p[p]) ∧
    t.fs = s.fs ∧ t.coef = s.coef ∧ t.z = s.z ∧ t.buf = s.buf ∧ t.seq = .idle ∧ t.built = s.built ∧
    t.opa = s.opa ∧ t.opb = s.opb ∧ t.len = s.len ∧ t.rsa = s.rsa ∧ t.rsb = s.rsb ∧ t.rdata = s.rdata ∧ t.audIn = s.audIn

/-- R58, R154 and 93_implementation_defined.md U12: one write racing a `LATCH` is seen exactly when it lands before the micro-step that reads
its register: with `g` micro-steps still to wait after the first, it lands before the read number `j` if and only if `g < j`. The gap `g` and the order of
the reads are the model's forms of the free interleaving and the free order (logs 8, 5). -/
def Obligations.LatchSeesWriteByPosition : Prop :=
  ∀ (s : State) (g : Nat) (a : BitVec 4) (p : Fin 11) (tx : ParamTx), s.built = true → s.ctlIn = [(g, tx)] →
    decodeWord tx.cw = .ok (.wrp a) → paramIndex a = some p →
    ∃ t, exec .latch s = .next t ∧
      t.act[p] = some (if g < ((Config.latchOrder s.latches).symm p).val then tx.opa else s.p[p]) ∧
      (∀ q : Fin 11, q ≠ p → t.act[q] = some s.p[q]) ∧
      t.p = (if g < 10 then s.p.set p tx.opa else s.p) ∧
      t.ctlIn = (if g < 10 then [] else [(g - 10, tx)])

/-- R154 ("Never refused after `RST`"), R61: a `LATCH` completes whatever legal writes of `CTL` are pending. -/
def Obligations.LatchAlwaysCompletes : Prop :=
  ∀ s : State, s.built = true → (∀ e ∈ s.ctlIn, LegalWrite e.2) → ∃ t, exec .latch s = .next t

/-! ## The units on the machine (40_biquad.md to 44_saturator.md) -/

/-- 41_shelving_coef.md R111, R112 and 10_state.md R22, R25: `CLS k` (words 0x40, 0x42) computes the six stored values of the low-shelf from
`FS` and its own gain and cutoff, in the order of the rule's pseudocode, and changes nothing else. -/
def Obligations.ClsWritesShelfCoefficients : Prop :=
  InAnyNumerics fun F _ _ N run =>
  decodeWord 0x40#8 = .ok (.cls 0#4) ∧ decodeWord 0x42#8 = .ok (.cls 2#4) ∧
  ∀ (s : State F) (k : Fin 3) (gi fi : Fin 11) (fs G f : F),
    ((k = 0 ∧ gi = 0 ∧ fi = 1) ∨ (k = 2 ∧ gi = 2 ∧ fi = (if Config.sideFreqAssign = .lowerToHp then 4 else 3))) →
    s.fs = some fs → s.act[gi] = some G → s.act[fi] = some f →
    N.lt (N.lit 0) f = true → N.lt f (N.div fs (N.lit 2)) = true → N.lt (N.lit 0) fs = true →
    let A := N.pow10 (N.div G (N.lit 40))
    let w0 := N.div (N.mul (N.mul (N.lit 2) N.PI) f) fs
    let cw := N.cos w0
    let alpha := N.div (N.sin w0) (N.mul (N.lit 2) N.Q)
    let sa := N.mul (N.mul (N.lit 2) (N.sqrt A)) alpha
    let t := N.mul (N.sub A (N.lit 1)) cw
    let u := N.mul (N.add A (N.lit 1)) cw
    let a0r := N.add (N.add (N.add A (N.lit 1)) t) sa
    run (.cls (BitVec.ofNat 4 k.val)) s = .next { s with
      coef := s.coef.set k (some
        { b0 := N.div (N.mul A (N.add (N.sub (N.add A (N.lit 1)) t) sa)) a0r
          b1 := N.div (N.mul (N.mul (N.lit 2) A) (N.sub (N.sub A (N.lit 1)) u)) a0r
          b2 := N.div (N.mul A (N.sub (N.sub (N.add A (N.lit 1)) t) sa)) a0r
          a0 := N.div a0r a0r
          a1 := N.div (N.mul (N.lit (-2)) (N.add (N.sub A (N.lit 1)) u)) a0r
          a2 := N.div (N.sub (N.add (N.add A (N.lit 1)) t) sa) a0r }) }

/-- 42_highpass_coef.md R121, R122 and 10_state.md R25: `CHP` (word 0x50) likewise for `COEF[1]`. -/
def Obligations.ChpWritesHighPassCoefficients : Prop :=
  InAnyNumerics fun F _ _ N run =>
  decodeWord 0x50#8 = .ok .chp ∧
  ∀ (s : State F) (fi : Fin 11) (fs f : F), fi = (if Config.sideFreqAssign = .lowerToHp then 3 else 4) →
    s.fs = some fs → s.act[fi] = some f →
    N.lt (N.lit 0) f = true → N.lt f (N.div fs (N.lit 2)) = true → N.lt (N.lit 0) fs = true →
    let w0 := N.div (N.mul (N.mul (N.lit 2) N.PI) f) fs
    let cw := N.cos w0
    let alpha := N.div (N.sin w0) (N.mul (N.lit 2) N.Q)
    let opc := N.add (N.lit 1) cw
    let a0r := N.add (N.lit 1) alpha
    run .chp s = .next { s with
      coef := s.coef.set 1 (some
        { b0 := N.div (N.div opc (N.lit 2)) a0r
          b1 := N.div (N.neg opc) a0r
          b2 := N.div (N.div opc (N.lit 2)) a0r
          a0 := N.div a0r a0r
          a1 := N.div (N.mul (N.lit (-2)) cw) a0r
          a2 := N.div (N.sub (N.lit 1) alpha) a0r }) }

/-- R111, R121, R172 (V1, V3, V5): a calculator is refused with V3 when a register it reads is unwritten, else with V1 when the cutoff is
out of range; a `CLS` of any index but 0 and 2 is refused with V5. -/
def Obligations.CalculatorsRefuse : Prop :=
  InAnyNumerics fun F _ _ N run =>
  (∀ (s : State F) (k : Shelf), s.fs = none ∨ s.act[shelfGain k] = none ∨ s.act[shelfFreq k] = none →
    run (.cls (BitVec.ofNat 4 (shelfStage k).val)) s = .refused .v3Unwritten) ∧
  (∀ (s : State F) (k : Shelf) (fs G f : F), s.fs = some fs → s.act[shelfGain k] = some G → s.act[shelfFreq k] = some f →
    cutoffOk N f fs = false → run (.cls (BitVec.ofNat 4 (shelfStage k).val)) s = .refused .v1Cutoff) ∧
  (∀ (s : State F) (a : BitVec 4), a ≠ 0#4 → a ≠ 2#4 → run (.cls a) s = .refused .v5Reserved) ∧
  (∀ s : State F, s.fs = none ∨ s.act[highPassFreq] = none → run .chp s = .refused .v3Unwritten) ∧
  (∀ (s : State F) (fs f : F), s.fs = some fs → s.act[highPassFreq] = some f → cutoffOk N f fs = false →
    run .chp s = .refused .v1Cutoff)

/-- 40_biquad.md R101: `BQ k` (word 0x60 + k) delivers `y = (b0 * x) + z1` and updates its own `Z[k]` from the old pair and `y`; nothing
else of the block changes (R21: no other stage's state). R101 and 30_encoding.md R73 deliver `RSA` alone; that the second half of the result
port, `RSB`, is emptied is the model's choice (log 19, DEDUCED). With `COEF[k]` unwritten it is refused (V3), with an index above 2 (V5). -/
def Obligations.BqRunsTheRecurrence : Prop :=
  let N := Config.num
  (∀ (s : State) (k : Fin 3) (c : Coef Sample), s.coef[k] = some c →
    decodeWord (BitVec.ofNat 8 (0x60 + k.val)) = .ok (.bq (BitVec.ofNat 4 k.val)) ∧
    let x := s.opa
    let y := N.add (N.mul c.b0 x) s.z[k].z1
    exec (.bq (BitVec.ofNat 4 k.val)) s = .next { s with
      z := s.z.set k ⟨N.sub (N.add s.z[k].z2 (N.mul c.b1 x)) (N.mul c.a1 y), N.sub (N.mul c.b2 x) (N.mul c.a2 y)⟩
      rsa := some y
      rsb := none }) ∧
  (∀ (s : State) (k : Fin 3), s.coef[k] = none → exec (.bq (BitVec.ofNat 4 k.val)) s = .refused .v3Unwritten) ∧
  (∀ (s : State) (a : BitVec 4), 2 < a.toNat → exec (.bq a) s = .refused .v5Reserved)

/-- 10_state.md R28, R101: the stored `a0` is read by no operation: two states that differ in it alone give the same `y` and the same
`Z[k]`. -/
def Obligations.BqIgnoresStoredA0 : Prop :=
  ∀ (s t : State) (k : Fin 3) (c : Coef Sample) (a : Sample), s.coef[k] = some c →
    exec (.bq (BitVec.ofNat 4 k.val)) s = .next t →
    exec (.bq (BitVec.ofNat 4 k.val)) { s with coef := s.coef.set k (some { c with a0 := a }) } =
      .next { t with coef := s.coef.set k (some { c with a0 := a }) }

/-- 43_midside.md R131: `ENC` (word 0x70) delivers `(L + R) / 2` and `(L - R) / 2`, reads and writes no register, and is never refused. -/
def Obligations.EncSplitsTheFrame : Prop :=
  let N := Config.num
  decodeWord 0x70#8 = .ok .enc ∧ Instr.agent .enc = .aud ∧
  ∀ s : State, exec .enc s = .next { s with
    rsa := some (N.div (N.add s.opa s.opb) (N.lit 2))
    rsb := some (N.div (N.sub s.opa s.opb) (N.lit 2)) }

/-- R132, R133: `DEC` (word 0x80) delivers `(mid + side) * g` and `(mid - side) * g` with `g = pow10(ACT[10] / 20)`; with `ACT[10]` unwritten
it is refused (V3). -/
def Obligations.DecJoinsTheFrame : Prop :=
  let N := Config.num
  decodeWord 0x80#8 = .ok .dec ∧ Instr.agent .dec = .aud ∧
  (∀ (s : State) (dB : Sample), s.act[10] = some dB →
    let g := N.pow10 (N.div dB (N.lit 20))
    exec .dec s = .next { s with
      rsa := some (N.mul (N.add s.opa s.opb) g)
      rsb := some (N.mul (N.sub s.opa s.opb) g) }) ∧
  (∀ s : State, s.act[10] = none → exec .dec s = .refused .v3Unwritten)

/-- 44_saturator.md R141, R142, R143 and 10_state.md R26: `SAT` (word 0x90) delivers `((A * 0.01) * tanh(x * k) + (B * 0.01) * sin(x * f)) *
(mix * 0.01)` with A, k, mix, B, f from `ACT[5..9]`, and writes no register; with one of them unwritten it is refused (V3). R141 and
30_encoding.md R73 deliver `RSA` alone; that the second half of the result port, `RSB`, is emptied is the model's choice (log 19, DEDUCED). -/
def Obligations.SatShapesTheSample : Prop :=
  let N := Config.num
  decodeWord 0x90#8 = .ok .sat ∧ Instr.agent .sat = .aud ∧
  (∀ (s : State) (a k m b f : Sample), s.act[5] = some a → s.act[6] = some k → s.act[7] = some m → s.act[8] = some b →
    s.act[9] = some f →
    let c := N.lit (1 / 100)
    let y := N.add (N.mul (N.mul a c) (N.tanh (N.mul s.opa k))) (N.mul (N.mul b c) (N.sin (N.mul s.opa f)))
    exec .sat s = .next { s with rsa := some (N.mul y (N.mul m c)), rsb := none }) ∧
  (∀ (s : State) (i : Fin 11), 5 ≤ i.val → i.val ≤ 9 → s.act[i] = none → exec .sat s = .refused .v3Unwritten)

/-- 70_reset_and_hazards.md R194, R172: each unit command that reads a register that may be unwritten completes exactly when those
registers are written (and, for the calculators, the cutoff is legal). -/
def Obligations.AcceptedExactlyWhenWritten : Prop :=
  ∀ s : State,
    ((∃ t, exec .dec s = .next t) ↔ s.act[10].isSome = true) ∧
    ((∃ t, exec .sat s = .next t) ↔ ∀ i : Fin 11, 5 ≤ i.val → i.val ≤ 9 → s.act[i].isSome = true) ∧
    (∀ k : Fin 3, (∃ t, exec (.bq (BitVec.ofNat 4 k.val)) s = .next t) ↔ s.coef[k].isSome = true) ∧
    (∀ k : Shelf, (∃ t, exec (.cls (BitVec.ofNat 4 (shelfStage k).val)) s = .next t) ↔
      ∃ fs f, s.fs = some fs ∧ s.act[shelfGain k].isSome = true ∧ s.act[shelfFreq k] = some f ∧ cutoffOk Config.num f fs = true) ∧
    ((∃ t, exec .chp s = .next t) ↔ ∃ fs f, s.fs = some fs ∧ s.act[highPassFreq] = some f ∧ cutoffOk Config.num f fs = true)

/-- 10_state.md R25: under either value of `SIDE_FREQ_ASSIGN` the two cutoffs are `ACT[3]` and `ACT[4]`, each feeding one side filter. -/
def Obligations.SideFrequenciesAreSplit : Prop :=
  hpfIndex .lowerToHp = 3 ∧ ssfIndex .lowerToHp = 4 ∧ hpfIndex .lowerToShelf = 4 ∧ ssfIndex .lowerToShelf = 3 ∧
  ((highPassFreq = 3 ∧ shelfFreq .side = 4) ∨ (highPassFreq = 4 ∧ shelfFreq .side = 3))

/-! ## The chain (45_chain_commands.md) -/

/-- R158 corner case a: an empty block is accepted in every state and changes nothing. -/
def Obligations.ProcEmptyBlockIsNoOp : Prop :=
  decodeWord 0xA0#8 = .ok .proc ∧ Instr.agent .proc = .aud ∧ ∀ s : State, s.len = 0#32 → exec .proc s = .next s

/-- R159: a block is refused with V4 exactly when it does not fit the buffer; a non-empty block that fits is refused with V3 when no sample
rate is set, and with V1 when one of the three cutoffs in `P` is out of range (no `CTL` write falling inside). -/
def Obligations.ProcRefusals : Prop :=
  InAnyNumerics fun F _ _ N run =>
  (∀ s : State F, run .proc s = .refused .v4BlockLength ↔ Config.NMAX < s.len.toNat) ∧
  (∀ s : State F, s.len ≠ 0#32 → s.len.toNat ≤ Config.NMAX → s.fs = none → run .proc s = .refused .v3Unwritten) ∧
  (∀ (s : State F) (fs : F), s.len ≠ 0#32 → s.len.toNat ≤ Config.NMAX → s.fs = some fs → Quiet s →
    blockCutoffsOk N s.p fs = false → run .proc s = .refused .v1Cutoff)

/-- R158, R161: with no `CTL` write inside, a block that fits, with a sample rate and legal cutoffs, completes, and leaves exactly what the
chain computes frame by frame in place from `P`, `FS`, `Z` and the buffer; nothing else of the block changes. The count `latches` is the
model's own (log 5). -/
def Obligations.ProcCompletesAsTheChain : Prop :=
  InAnyNumerics fun F _ _ N run =>
  ∀ (s : State F) (fs : F), s.len ≠ 0#32 → s.len.toNat ≤ Config.NMAX → s.fs = some fs → Quiet s →
    blockCutoffsOk N s.p fs = true → run .proc s = .next (afterProc N s fs)

/-- R158, R59 (items 1, 3, 5), R116, R125: whatever `CTL` writes fall inside, a non-empty block that completes ran every frame on ONE
snapshot, each register of it the old `P[p]` or the whole operand of one `WRP p`, and on the coefficients computed from it. -/
def Obligations.ProcRunsOnItsSnapshot : Prop :=
  InAnyNumerics fun F _ _ N run =>
  ∀ s t : State F, run .proc s = .next t → s.len ≠ 0#32 →
    ∃ (fs : F) (v : Vector F 11), s.fs = some fs ∧ blockCutoffsOk N v fs = true ∧
      (∀ p : Fin 11, v[p] = s.p[p] ∨ WritesTo s.ctlIn p v[p]) ∧
      t.act = v.map some ∧
      (let q := blockParams N v fs
       let r := (List.range s.len.toNat).foldl (chainInPlace N q) (s.buf, chainStateOf s.z)
       t.coef = #v[some q.mid, some q.high, some q.side] ∧ t.z = zOf r.2 ∧ t.buf = r.1) ∧
      t.fs = s.fs ∧ t.seq = .idle ∧ t.built = s.built ∧ t.opa = s.opa ∧ t.opb = s.opb ∧ t.len = s.len ∧ t.rsa = s.rsa ∧
      t.rsb = s.rsb ∧ t.rdata = s.rdata ∧ t.audIn = s.audIn ∧
      (∀ p : Fin 11, t.p[p] = s.p[p] ∨ WritesTo s.ctlIn p t.p[p])

/-- 20_memory.md R54, R183: a `PROC` that completes leaves `SEQ = IDLE` and every buffer word of a frame at or above `LEN` as it was. -/
def Obligations.ProcTouchesOnlyItsFrames : Prop :=
  InAnyNumerics fun F _ _ _ run =>
  ∀ s t : State F, run .proc s = .next t → (s.seq = .idle → t.seq = .idle) ∧
    ∀ a : Nat, (∀ c n : Nat, c < 2 → n < s.len.toNat → a ≠ bufAddr c n) → bufRead t.buf a = bufRead s.buf a

/-- R160: a command takes the micro-steps the rule counts: a `CTL` write that still has to wait for longer than the command takes has that
many fewer to wait for after it, and has not landed. (An empty `PROC` counting as one is the model's choice, log 14.) -/
def Obligations.MicroStepsAreCounted : Prop :=
  (∀ (o : Equiv.Perm (Fin 11)) (N : Nat), (latchPlan o).length = 11 ∧ (procPlan o N).length = 14 + 11 * N) ∧
  ∀ (s t : State) (tx : CmdTx) (rest : List AudInput) (i : Instr) (g : Nat) (w : ParamTx) (r : List (Nat × ParamTx)),
    s.audIn = .cmd tx :: rest → decodeWord tx.cw = .ok i → s.ctlIn = (g, w) :: r → microSteps i tx.len ≤ g →
    step s = .next t → t.ctlIn = (g - microSteps i tx.len, w) :: r ∧ (i ≠ .rst → t.p = s.p)

/-- R59 item 5, R116: a `CTL` write that lands after the eleventh snapshot read changes nothing of what the block computes. -/
def Obligations.LateWritesChangeNothing : Prop :=
  InAnyNumerics fun F _ _ _ run =>
  ∀ (s t : State F) (g : Nat) (w : ParamTx F) (r : List (Nat × ParamTx F)), s.ctlIn = (g, w) :: r → 10 ≤ g → run .proc s = .next t →
    ∃ u, run .proc { s with ctlIn := [] } = .next u ∧ t.act = u.act ∧ t.coef = u.coef ∧ t.z = u.z ∧ t.buf = u.buf

/-- R162, with 30_encoding.md R83: with no `CTL` write in between, a non-empty `PROC` and its expansion into `BEGIN` and `FRAME` lines, the
host reading and writing the buffer, leave the same snapshot, coefficients, filter state and buffer. -/
def Obligations.ProcEqualsItsExpansion : Prop :=
  InAnyNumerics fun F _ _ N run =>
  ∀ (s : State F) (fs : F), s.built = true → s.seq = .idle → Quiet s → s.len ≠ 0#32 → s.len.toNat ≤ Config.NMAX →
    s.fs = some fs → blockCutoffsOk N s.p fs = true →
    ∃ t u, run .proc s = .next t ∧ expandProc N run s.len.toNat s = some (.next u) ∧
      t.act = u.act ∧ t.coef = u.coef ∧ t.z = u.z ∧ t.buf = u.buf

/-- R163: a block cut in two anywhere, an end included, gives the same frames and the same final filter state as the whole block, the host
presenting the second part at the buffer's first frames, as long as `P` and `FS` do not change; when the second part is not empty, the
same coefficients and snapshot. -/
def Obligations.BlockSplitsAnywhere : Prop :=
  InAnyNumerics fun F _ _ _ run =>
  ∀ (s s₁ s₂ whole first second : State F) (fs : F) (j : Nat),
    Quiet s → bufWf s.buf = true → s.fs = some fs → j ≤ s.len.toNat → s.len.toNat ≤ Config.NMAX →
    run .proc s = .next whole →
    s₁ = { s with len := BitVec.ofNat 32 j } → run .proc s₁ = .next first →
    Quiet s₂ → bufWf s₂.buf = true → s₂.fs = s.fs → s₂.p = s.p → s₂.z = first.z → s₂.len = BitVec.ofNat 32 (s.len.toNat - j) →
    (∀ n, n < s.len.toNat - j → frameAt s₂.buf n = frameAt s.buf (j + n)) →
    run .proc s₂ = .next second →
    (∀ n, n < j → frameAt whole.buf n = frameAt first.buf n) ∧
    (∀ n, n < s.len.toNat - j → frameAt whole.buf (j + n) = frameAt second.buf n) ∧
    whole.z = second.z ∧
    (j < s.len.toNat → whole.coef = second.coef ∧ whole.act = second.act)

/-- R164: frame by frame through all stages and stage by stage over all frames give the same outputs and the same filter states, in any
numerics. -/
def Obligations.LoopOrderIsIrrelevant : Prop :=
  ∀ (F : Type) (N : Numerics F) (q : ChainParams F) (xs : List (F × F)) (z : ChainState F),
    frameMajor N q xs z = stageMajor N q xs z

/-- 40_biquad.md R102: `BQ k` on a sequence of samples, with `COEF[k]` written, completes however the sequence is cut into consecutive
calls, and delivers the outputs and leaves the `Z[k]` of one run of the recurrence over the whole sequence; nothing else of the state
changes but the ports (the operand, and the results, which are the model's own fields: log 9). -/
def Obligations.StageRunSplitsAnywhere : Prop :=
  ∀ (s : State) (k : Fin 3) (c : Coef Sample) (calls : List (List Sample)), s.coef[k] = some c →
    let r := stageRun Config.num c calls.flatten s.z[k]
    ∃ t, bqCalls (BitVec.ofNat 4 k.val) calls s = .next (r.1.map some, t) ∧
      bqRun (BitVec.ofNat 4 k.val) calls.flatten s = .next (r.1.map some, t) ∧
      t = { s with z := s.z.set k r.2, opa := t.opa, rsa := t.rsa, rsb := t.rsb }

/-- 10_state.md R35 (and R23, R24, R27 to R29, R59 item 6): for every command, an element of state that the table does not list for it is
not written; of the buffer, `PROC` alone writes, and only words `BUF[c][n]` with `n < LEN`. `P` changes inside `LATCH` and `PROC` only by
a pending `WRP`. Of the results it says which commands touch the port; that `BQ` and `SAT` empty `RSB` is the model's (log 19). -/
def Obligations.AccessTable : Prop :=
  ∀ (i : Instr) (s t : State), exec i s = .next t →
    (t.fs = s.fs ∨ i = .rst ∨ i = .srate) ∧
    (∀ p : Fin 11, t.p[p] = s.p[p] ∨ i = .rst ∨ (∃ a, i = .wrp a ∧ paramIndex a = some p) ∨
      ((i = .latch ∨ i = .proc) ∧ WritesTo s.ctlIn p t.p[p])) ∧
    (t.act = s.act ∨ i = .rst ∨ i = .latch ∨ i = .proc) ∧
    (∀ k : Fin 3, t.coef[k] = s.coef[k] ∨ i = .rst ∨ i = .proc ∨ (i = .chp ∧ k = 1) ∨
      (∃ a sh, i = .cls a ∧ shelfIndex a = some sh ∧ k = shelfStage sh)) ∧
    (∀ k : Fin 3, t.z[k] = s.z[k] ∨ i = .rst ∨ i = .proc ∨ (∃ a, i = .bq a ∧ stageIndex a = some k)) ∧
    (t.buf = s.buf ∨ i = .proc) ∧
    (∀ a : Nat, bufRead t.buf a = bufRead s.buf a ∨ (i = .proc ∧ ∃ c n : Nat, c < 2 ∧ n < s.len.toNat ∧ a = bufAddr c n)) ∧
    (s.seq = .idle → t.seq = .idle) ∧
    ((t.rsa = s.rsa ∧ t.rsb = s.rsb) ∨ i = .enc ∨ i = .dec ∨ i = .sat ∨ ∃ a, i = .bq a) ∧
    t.opa = s.opa ∧ t.opb = s.opb ∧ t.len = s.len ∧ t.rdata = s.rdata ∧ t.audIn = s.audIn

/-- 00_scope.md R11, 20_memory.md R56, 60_exceptions.md R170, R172 (the columns V1 to V5): a command completes or is refused, there is no
third outcome, and it is refused only for a violation the table detects in that command; so `PROC` forms no address outside the buffer.
That an index no legal word carries is refused by `exec` too, and that a `CTL` transaction which is a violation itself refuses the
`LATCH` or `PROC` it falls inside (V5: no legal `WRP`; V7: any, before the first `RST`), are the model's forms (logs 20, 12). -/
def Obligations.CommandsCompleteOrAreRefused : Prop :=
  ∀ (i : Instr) (s : State), (∃ t, exec i s = .next t) ∨ ∃ r, exec i s = .refused r ∧
    ((r = .v1Cutoff ∧ (i = .chp ∨ i = .proc ∨ ∃ a, i = .cls a)) ∨
     (r = .v2SampleRate ∧ i = .srate) ∨
     (r = .v3Unwritten ∧ (i = .chp ∨ i = .dec ∨ i = .sat ∨ i = .proc ∨ (∃ a, i = .cls a) ∨ ∃ a, i = .bq a)) ∨
     (r = .v4BlockLength ∧ i = .proc) ∨
     (r = .v5Reserved ∧ WellFormed i = false) ∨
     (r = .v5Reserved ∧ (i = .latch ∨ i = .proc) ∧ ∃ e ∈ s.ctlIn, ¬ LegalWrite e.2) ∨
     (r = .v7BeforeReset ∧ (i = .latch ∨ i = .proc) ∧ s.ctlIn ≠ [] ∧ s.built = false))

/-! ## The ports and the step (30_encoding.md R77, 20_memory.md R55, R58) -/

/-- R77, R72: when a command stands at the head of the audio side's queue and no `CTL` write is due, the step of a constructed, idle block is
`exec` of the decoded command, with the operands on the port. That the result port is empty then and that the pending write waits one
micro-step less are the model's own forms (logs 8, 9). -/
def Obligations.StepRunsTheTakenCommand : Prop :=
  ∀ (s : State) (tx : CmdTx) (rest : List AudInput) (i : Instr), s.built = true → s.seq = .idle →
    (∀ w r, s.ctlIn ≠ (0, w) :: r) → s.audIn = .cmd tx :: rest → decodeWord tx.cw = .ok i → i.agent = .aud →
    step s = exec i { s with
      audIn := rest, opa := tx.opa, opb := tx.opb, len := tx.len, rsa := none, rsb := none, ctlIn := tickQueue s.ctlIn }

/-- R58, R77, R59 items 5, 6: a due `CTL` write lands in one step, whatever `SEQ` is: `P[p]` takes the operand and nothing else of the block
changes. That a write which still waits lands when the audio side has nothing left to do is the model's (log 18). -/
def Obligations.StepLandsADueWrite : Prop :=
  ∀ (s : State) (g : Nat) (tx : ParamTx) (rest : List (Nat × ParamTx)) (a : BitVec 4) (p : Fin 11), s.built = true →
    s.ctlIn = (g, tx) :: rest → g = 0 ∨ s.audIn = [] → decodeWord tx.cw = .ok (.wrp a) → paramIndex a = some p →
    step s = .next { s with ctlIn := rest, pdata := tx.opa, p := s.p.set p tx.opa }

/-- R80, R77, R172 (V5): a reserved word on either port, a `WRP` on the command port and any other command on the parameter port are
refused. -/
def Obligations.ReservedUsesAreRefused : Prop :=
  (∀ (s : State) (tx : CmdTx) (rest : List AudInput), s.built = true → (∀ w r, s.ctlIn ≠ (0, w) :: r) → s.audIn = .cmd tx :: rest →
    (∀ i, decodeWord tx.cw = .ok i → i.agent = .ctl) → step s = .refused .v5Reserved) ∧
  (∀ (s : State) (tx : ParamTx) (rest : List (Nat × ParamTx)), s.built = true → s.ctlIn = (0, tx) :: rest →
    (∀ i, decodeWord tx.cw = .ok i → i.agent = .aud) → step s = .refused .v5Reserved)

/-- R36, R151, R172 (V7): before the first `RST`, whatever else the state holds, `RST` is taken and constructs the chain (the six
assignments of R151, the buffer left alone), and every other word on either port is refused. `built` is the model's own (log 10). -/
def Obligations.PowerOnTakesOnlyRst : Prop :=
  (∀ (s : State) (tx : CmdTx) (rest : List AudInput), s.built = false → (∀ w r, s.ctlIn ≠ (0, w) :: r) → s.audIn = .cmd tx :: rest →
    (decodeWord tx.cw = .ok .rst →
      ∃ t, step s = .next t ∧ t.built = true ∧ t.seq = .idle ∧ t.fs = none ∧ t.act = Vector.replicate 11 none ∧
        t.coef = Vector.replicate 3 none ∧ t.z = Vector.replicate 3 ⟨Config.num.lit 0, Config.num.lit 0⟩ ∧
        t.p = #v[Config.num.lit (5 / 2), Config.num.lit 250, Config.num.lit 6, Config.num.lit 140, Config.num.lit 4000, Config.num.lit 50,
          Config.num.lit 7, Config.num.lit 50, Config.num.lit 50, Config.num.lit 60, Config.num.lit 0] ∧ t.buf = s.buf) ∧
    (decodeWord tx.cw ≠ .ok .rst → step s = .refused .v7BeforeReset)) ∧
  (∀ (s : State) (tx : ParamTx) (rest : List (Nat × ParamTx)), s.built = false → s.ctlIn = (0, tx) :: rest →
    step s = .refused .v7BeforeReset)

/-- R77, R182, R192: a command offered while another is in progress is not taken; a block with nothing to do waits and keeps all its
state (that this waiting is a step is the model's, log 18; that taking nothing is a refusal, log 12). -/
def Obligations.PortIsBusyOrIdle : Prop :=
  (∀ (s : State) (tx : CmdTx) (rest : List AudInput) (i : Instr), s.built = true → s.seq ≠ .idle → (∀ w r, s.ctlIn ≠ (0, w) :: r) →
    s.audIn = .cmd tx :: rest → decodeWord tx.cw = .ok i → i.agent = .aud → step s = .refused .portBusy) ∧
  (∀ s : State, s.audIn = [] → s.ctlIn = [] → step s = .next s)

/-- 20_memory.md R50 to R53, R55, R64: channel 0 is words 0 to `NMAX - 1` and channel 1 words `NMAX` to `2 * NMAX - 1`, in frame order,
and that is the whole buffer; while the block is idle (before the first `RST` too: log 26) the host writes any word of the buffer, whole,
which then reads as written in all its `W` bits while every other word reads as before, and reads any word whole (the unit is the word,
R53); an address outside the buffer is refused (log 16); a
word the block owns is refused (V6). -/
def Obligations.HostOwnsTheIdleBuffer : Prop :=
  (∀ c n : Nat, c < 2 → n < Config.NMAX → bufAddr c n = c * Config.NMAX + n ∧ bufAddr c n < 2 * Config.NMAX) ∧
  (∀ a : Nat, a < 2 * Config.NMAX → ∃ c n : Nat, c < 2 ∧ n < Config.NMAX ∧ a = bufAddr c n) ∧
  (∀ (s : State) (a : Nat) (v : Sample) (rest : List AudInput), s.seq = .idle → bufWf s.buf = true → (∀ w r, s.ctlIn ≠ (0, w) :: r) →
    s.audIn = .bufWrite a v :: rest → a < 2 * Config.NMAX →
    ∃ b, step s = .next { s with audIn := rest, buf := b } ∧ bufRead b a = v ∧ (∀ c, c ≠ a → bufRead b c = bufRead s.buf c) ∧
      bufWf b = true) ∧
  (∀ (s : State) (a : Nat) (rest : List AudInput), s.seq = .idle → (∀ w r, s.ctlIn ≠ (0, w) :: r) → s.audIn = .bufRead a :: rest →
    a < 2 * Config.NMAX → step s = .next { s with audIn := rest, rdata := some (bufRead s.buf a) }) ∧
  (∀ (s : State) (a : Nat) (v : Sample) (rest : List AudInput), s.seq = .idle → (∀ w r, s.ctlIn ≠ (0, w) :: r) →
    s.audIn = .bufWrite a v :: rest ∨ s.audIn = .bufRead a :: rest → 2 * Config.NMAX ≤ a → step s = .refused (.bufferRange a)) ∧
  (∀ (s : State) (c n : Nat) (v : Sample) (rest : List AudInput), s.built = true → s.seq ≠ .idle → (∀ w r, s.ctlIn ≠ (0, w) :: r) →
    c < 2 → n < Config.NMAX → n < s.len.toNat →
    s.audIn = .bufWrite (bufAddr c n) v :: rest ∨ s.audIn = .bufRead (bufAddr c n) :: rest → step s = .refused .v6BufferOwned)

/-- 00_scope.md R16, 20_memory.md R59 item 6: once a run has ended it stays ended, and what it left in the chain's registers stays, whatever
`CTL` and the host still do: a step changes nothing of the block but `P`, by a pending `WRP`, or one word of the buffer, by the host. That
the host's access is served before the first `RST` too (log 26, DESIGN CHOICE) and that the results of the last command still stand on
the port (log 19, DEDUCED) are the model's. -/
def Obligations.RunEndIsStable : Prop :=
  ∀ s t : State, Ended s = true → bufWf s.buf = true → step s = .next t →
    Ended t = true ∧ t.fs = s.fs ∧ t.act = s.act ∧ t.coef = s.coef ∧ t.z = s.z ∧ t.seq = .idle ∧ t.rsa = s.rsa ∧ t.rsb = s.rsb ∧
    (∀ p : Fin 11, t.p[p] = s.p[p] ∨ WritesTo s.ctlIn p t.p[p]) ∧
    (∀ a : Nat, bufRead t.buf a = bufRead s.buf a ∨ ∃ v, s.audIn.head? = some (.bufWrite a v) ∧ bufRead t.buf a = v)

/-- Every step keeps the invariant `StepInv`: constructed, idle between commands (10_state.md R33), buffer in canonical form, snapshot
written whole or not at all, coefficients only after a rate and a snapshot (70_reset_and_hazards.md R194). -/
def Obligations.StepKeepsTheInvariant : Prop :=
  ∀ s t : State, StepInv s → step s = .next t → StepInv t

/-- The state after reset meets `StepInv`. -/
def Obligations.ResetMeetsTheInvariant : Prop := StepInv State.reset

/-! ## The formulas over the reals (`NUM_R`, 00_scope.md R8) -/

/-- R111: the raw values over the reals are the document's formulas, written as it writes them. -/
def Obligations.ShelfFormulasOverReals : Prop :=
  ∀ G f fs : ℝ,
    let A := (10 : ℝ) ^ (G / 40)
    let w0 := 2 * Real.pi * f / fs
    let α := Real.sin w0 / (2 * (1 / Real.sqrt 2))
    shelfRaw Numerics.real G f fs =
      { b0 := A * ((A + 1) - (A - 1) * Real.cos w0 + 2 * Real.sqrt A * α)
        b1 := 2 * A * ((A - 1) - (A + 1) * Real.cos w0)
        b2 := A * ((A + 1) - (A - 1) * Real.cos w0 - 2 * Real.sqrt A * α)
        a0 := (A + 1) + (A - 1) * Real.cos w0 + 2 * Real.sqrt A * α
        a1 := -2 * ((A - 1) + (A + 1) * Real.cos w0)
        a2 := (A + 1) + (A - 1) * Real.cos w0 - 2 * Real.sqrt A * α }

/-- R114: under the preconditions the shelf's raw `a0` is positive, so the normalisation never divides by zero. -/
def Obligations.ShelfDenominatorIsPositive : Prop :=
  ∀ G f fs : ℝ, 0 < fs → 0 < f → f < fs / 2 → 0 < (shelfRaw Numerics.real G f fs).a0

/-- R115: the sums of the raw values, and the gains they give the normalised filter: `A * A = 10^(G/20)` at zero frequency, 1 at half the
sample rate. -/
def Obligations.ShelfGainsAtTheEnds : Prop :=
  ∀ G f fs : ℝ, 0 < fs → 0 < f → f < fs / 2 →
    let A := shelfAmplitude Numerics.real G
    let w0 := omega Numerics.real f fs
    let r := shelfRaw Numerics.real G f fs
    let c := shelfCoef Numerics.real G f fs
    r.b0 + r.b1 + r.b2 = 4 * A * A * (1 - Real.cos w0) ∧ r.a0 + r.a1 + r.a2 = 4 * (1 - Real.cos w0) ∧
    r.b0 - r.b1 + r.b2 = 4 * A * (1 + Real.cos w0) ∧ r.a0 - r.a1 + r.a2 = 4 * A * (1 + Real.cos w0) ∧
    (c.b0 + c.b1 + c.b2) / (1 + c.a1 + c.a2) = A * A ∧ A * A = (10 : ℝ) ^ (G / 20) ∧
    (c.b0 - c.b1 + c.b2) / (1 - c.a1 + c.a2) = 1

/-- R113, R112: at 0 dB the numerator equals the denominator term by term, the stored `a0` is 1, and the stage from zero state is the
identity on every sequence of samples. -/
def Obligations.UnityShelfIsTheIdentity : Prop :=
  ∀ f fs : ℝ, 0 < fs → 0 < f → f < fs / 2 →
    let w0 := omega Numerics.real f fs
    let α := alphaOf Numerics.real w0
    let r := shelfRaw Numerics.real 0 f fs
    let c := shelfCoef Numerics.real 0 f fs
    shelfAmplitude Numerics.real 0 = 1 ∧ r.b0 = 2 + 2 * α ∧ r.a0 = 2 + 2 * α ∧ r.b1 = -4 * Real.cos w0 ∧ r.a1 = -4 * Real.cos w0 ∧
    r.b2 = 2 - 2 * α ∧ r.a2 = 2 - 2 * α ∧ c.a0 = 1 ∧ c.b0 = 1 ∧ c.b1 = c.a1 ∧ c.b2 = c.a2 ∧
    ∀ xs : List ℝ, stageRun Numerics.real c xs ⟨0, 0⟩ = (xs, ⟨0, 0⟩)

/-- R123, and the same over the high-pass's stored `a0` by R122: under the preconditions the raw `a0` is `1 + alpha` and above 1. -/
def Obligations.HighPassDenominatorExceedsOne : Prop :=
  ∀ f fs : ℝ, 0 < fs → 0 < f → f < fs / 2 →
    (highPassRaw Numerics.real f fs).a0 = 1 + alphaOf Numerics.real (omega Numerics.real f fs) ∧
    1 < (highPassRaw Numerics.real f fs).a0 ∧ (highPassCoef Numerics.real f fs).a0 = 1

/-- R124, R121 corner case a: the high-pass has gain 0 at zero frequency and 1 at half the sample rate, so its magnitude at DC is strictly
lower; `b1 = -2 * b0` and `b2 = b0`. -/
def Obligations.HighPassGainsAtTheEnds : Prop :=
  ∀ f fs : ℝ, 0 < fs → 0 < f → f < fs / 2 →
    let r := highPassRaw Numerics.real f fs
    let c := highPassCoef Numerics.real f fs
    r.b0 + r.b1 + r.b2 = 0 ∧ r.b0 - r.b1 + r.b2 = 2 * (1 + Real.cos (omega Numerics.real f fs)) ∧
    r.a0 - r.a1 + r.a2 = 2 * (1 + Real.cos (omega Numerics.real f fs)) ∧
    (c.b0 + c.b1 + c.b2) / (1 + c.a1 + c.a2) = 0 ∧ (c.b0 - c.b1 + c.b2) / (1 - c.a1 + c.a2) = 1 ∧
    |(c.b0 + c.b1 + c.b2) / (1 + c.a1 + c.a2)| < |(c.b0 - c.b1 + c.b2) / (1 - c.a1 + c.a2)| ∧ c.b1 = -2 * c.b0 ∧ c.b2 = c.b0

/-- R121 corner case b and R111 corner case b: a cutoff at a quarter of the sample rate. -/
def Obligations.QuarterRateCoefficients : Prop :=
  ∀ fs : ℝ, 0 < fs →
    highPassCoef Numerics.real (fs / 4) fs =
      { b0 := 1 - Real.sqrt 2 / 2, b1 := -(2 - Real.sqrt 2), b2 := 1 - Real.sqrt 2 / 2, a0 := 1, a1 := 0, a2 := 3 - 2 * Real.sqrt 2 } ∧
    ∀ G : ℝ, (shelfCoef Numerics.real G (fs / 4) fs).b0 = shelfAmplitude Numerics.real G

/-- 91_not_in_source.md N24, 70_reset_and_hazards.md R198: under the preconditions both calculators give poles inside the unit circle:
`|a2| < 1` and `|a1| < 1 + a2`. -/
def Obligations.PolesLieInsideTheUnitCircle : Prop :=
  ∀ G f fs : ℝ, 0 < fs → 0 < f → f < fs / 2 →
    |(shelfCoef Numerics.real G f fs).a2| < 1 ∧ |(shelfCoef Numerics.real G f fs).a1| < 1 + (shelfCoef Numerics.real G f fs).a2 ∧
    |(highPassCoef Numerics.real f fs).a2| < 1 ∧ |(highPassCoef Numerics.real f fs).a1| < 1 + (highPassCoef Numerics.real f fs).a2

/-- R103: from zero state the outputs satisfy the difference equation, with samples before the first taken as zero; the state after each
sample is as the rule says; so the stage realises the rule's transfer function, here as an identity of power series in `z^-1`. -/
def Obligations.StageRealisesItsTransferFunction : Prop :=
  ∀ (c : Coef ℝ) (x : ℕ → ℝ),
    let y := stageOutAt Numerics.real c ⟨0, 0⟩ x
    let z := stageStateAt Numerics.real c ⟨0, 0⟩ x
    let ago (u : ℕ → ℝ) (k n : ℕ) : ℝ := if k ≤ n then u (n - k) else 0
    (∀ n, y n = c.b0 * x n + c.b1 * ago x 1 n + c.b2 * ago x 2 n - c.a1 * ago y 1 n - c.a2 * ago y 2 n) ∧
    (∀ n, (z (n + 1)).z1 = c.b1 * x n + c.b2 * ago x 1 n - c.a1 * y n - c.a2 * ago y 1 n ∧
      (z (n + 1)).z2 = c.b2 * x n - c.a2 * y n) ∧
    y 0 = c.b0 * x 0 ∧
    PowerSeries.mk y * (1 + PowerSeries.C c.a1 * PowerSeries.X + PowerSeries.C c.a2 * PowerSeries.X ^ 2) =
      PowerSeries.mk x * (PowerSeries.C c.b0 + PowerSeries.C c.b1 * PowerSeries.X + PowerSeries.C c.b2 * PowerSeries.X ^ 2)

/-- R104: over the reals, for fixed coefficients, the map from initial state and inputs to outputs and states is linear. -/
def Obligations.StageIsLinear : Prop :=
  ∀ (c : Coef ℝ) (z w : ZPair ℝ) (x u : ℕ → ℝ) (a b : ℝ) (n : ℕ),
    let v : ZPair ℝ := ⟨a * z.z1 + b * w.z1, a * z.z2 + b * w.z2⟩
    let q : ℕ → ℝ := fun m => a * x m + b * u m
    stageOutAt Numerics.real c v q n = a * stageOutAt Numerics.real c z x n + b * stageOutAt Numerics.real c w u n ∧
    stageStateAt Numerics.real c v q n =
      ⟨a * (stageStateAt Numerics.real c z x n).z1 + b * (stageStateAt Numerics.real c w u n).z1,
       a * (stageStateAt Numerics.real c z x n).z2 + b * (stageStateAt Numerics.real c w u n).z2⟩

/-- R134, R135: over the reals the codec is linear with the rule's matrices; decoding what was encoded gives the input times the make-up
gain, and at 0 dB the input itself. -/
def Obligations.CodecRoundTrip : Prop :=
  ∀ dB L R m s : ℝ,
    let g := makeUpGain Numerics.real dB
    midSideEncode Numerics.real L R = (1 / 2 * L + 1 / 2 * R, 1 / 2 * L + -(1 / 2) * R) ∧
    midSideDecode Numerics.real dB m s = (g * m + g * s, g * m + -g * s) ∧
    midSideDecode Numerics.real dB (midSideEncode Numerics.real L R).1 (midSideEncode Numerics.real L R).2 = (g * L, g * R) ∧
    midSideDecode Numerics.real 0 (midSideEncode Numerics.real L R).1 (midSideEncode Numerics.real L R).2 = (L, R) ∧
    g = (10 : ℝ) ^ (dB / 20) ∧ 0 < g

/-- R145: over the reals the shaped signal is bounded by the sum of the scaled amplitudes (their magnitudes, where they are negative), the
output by that times the scaled mix, both by 2 at the editor's limits; with a mix of 0 to 100 the output has the document's bound. -/
def Obligations.SaturatorOutputIsBounded : Prop :=
  ∀ (q : SatParams ℝ) (x : ℝ),
    |saturate Numerics.real q x| = |satWet Numerics.real q x| * |satMix Numerics.real q| ∧
    |satWet Numerics.real q x| ≤ |q.ampA| * 0.01 + |q.ampB| * 0.01 ∧
    |saturate Numerics.real q x| ≤ (|q.ampA| * 0.01 + |q.ampB| * 0.01) * |q.mix * 0.01| ∧
    (0 ≤ q.ampA → 0 ≤ q.ampB →
      |satWet Numerics.real q x| ≤ q.ampA * 0.01 + q.ampB * 0.01 ∧
      |saturate Numerics.real q x| ≤ (q.ampA * 0.01 + q.ampB * 0.01) * |q.mix * 0.01| ∧
      (0 ≤ q.mix → q.mix ≤ 100 → |saturate Numerics.real q x| ≤ q.ampA * 0.01 + q.ampB * 0.01) ∧
      (q.ampA ≤ 100 → q.ampB ≤ 100 → 0 ≤ q.mix → q.mix ≤ 100 →
        |satWet Numerics.real q x| ≤ 2 ∧ |saturate Numerics.real q x| ≤ 2))

/-- R141 corner cases a, b and R143: the saturator maps 0 to 0, is odd, and at mix 0 gives 0, not the dry input. -/
def Obligations.SaturatorIsOddAndHasNoDryPath : Prop :=
  ∀ (q : SatParams ℝ) (x : ℝ),
    saturate Numerics.real q 0 = 0 ∧ saturate Numerics.real q (-x) = -saturate Numerics.real q x ∧
    (q.mix = 0 → saturate Numerics.real q x = 0)

/-- 95_test_vectors.md section 1.1 (the document's end-to-end scenario), with R101, R161: one frame (1, -1) from zero state at 48000 Hz with a
0 dB mid shelf encodes to (0, 1); each stage's first output is `b0` times its input; the two outputs are opposite. -/
def Obligations.EndToEndFirstFrame : Prop :=
  ∀ (q : ChainParams ℝ), q.mid = shelfCoef Numerics.real 0 250 48000 →
    let r := chainFrame Numerics.real q ⟨⟨0, 0⟩, ⟨0, 0⟩, ⟨0, 0⟩⟩ (1, -1)
    let s2 := q.side.b0 * q.high.b0
    midSideEncode Numerics.real 1 (-1) = (0, 1) ∧
    r.1 = (saturate Numerics.real q.sat (s2 * makeUpGain Numerics.real q.makeUp),
      saturate Numerics.real q.sat (-(s2 * makeUpGain Numerics.real q.makeUp))) ∧
    r.1.2 = -r.1.1 ∧ r.2.z0 = ⟨0, 0⟩

/-- 20_memory.md R52: the form the buffer is held in is canonical: two buffers of that form that read the same at every address are the
same data. -/
def Obligations.BufferFormIsCanonical : Prop :=
  ∀ b d : List (Nat × Sample), bufWf b = true → bufWf d = true → (∀ a, bufRead b a = bufRead d a) → b = d
end

