-- ==== Sys2Proof/Laws/AnyNumerics.lean ====
section
/-! SUPPORT. The machine `exec` is the machine of any numerics at `Config.num`, so a claim proved in any numerics holds of it. -/

namespace Sys2Proof.Machine

theorem exec_eq_execIn : exec = execIn Config.num := by
  funext i s
  cases i <;> rfl

theorem step_eq_stepIn : step = stepIn Config.num := by
  funext s
  simp only [step, stepIn, exec_eq_execIn]

/-- The machine behind the host's interface is the machine of any numerics at `Config.num`. -/
theorem core_eq_machineIn : core = machineIn Config.num := by
  simp only [core, machineIn, step_eq_stepIn, State.reset]

/-- What holds in any numerics, over any carrier, holds of `exec` too. -/
theorem InAnyNumerics.intro
    {claim : (F : Type) → [Inhabited F] → [DecidableEq F] → Numerics F → (Instr → State F → Out (State F)) → Prop}
    (h : ∀ (F : Type) [Inhabited F] [DecidableEq F] (N : Numerics F), claim F N (execIn N)) : InAnyNumerics claim :=
  ⟨fun F _ _ N => h F N, exec_eq_execIn ▸ h Sample Config.num⟩

end Sys2Proof.Machine
end

