-- ==== Sys2Proof/Laws/Config.lean ====
section
/-! SUPPORT. What is known of the parameters: the buffer holds at least one frame. -/

namespace Sys2Proof.Config

theorem one_le_NMAX : 1 ≤ NMAX := Nat.le_add_left 1 nmaxMinusOne

theorem NMAX_pos : 0 < NMAX := one_le_NMAX

end Sys2Proof.Config
end

