-- ==== Sys2Proof/Laws/Outcome.lean ====
section
/-! SUPPORT. Laws of running one operation after another. -/

namespace Sys2Proof.Machine

@[simp] theorem andThen_next {α β : Type} (a : α) (k : α → Out β) : andThen (.next a) k = k a := rfl
@[simp] theorem andThen_fault {α β : Type} (r : Fault) (k : α → Out β) : andThen (.fault r) k = .fault r := rfl
@[simp] theorem andThen_refused {α β : Type} (r : Refusal) (k : α → Out β) : andThen (.refused r) k = .refused r := rfl

/-- When a sequence answers a next state, both of its parts did. -/
theorem andThen_eq_next {α β : Type} {o : Out α} {k : α → Out β} {b : β} :
    andThen o k = .next b ↔ ∃ a, o = .next a ∧ k a = .next b := by
  cases o <;> simp

theorem andThen_eq_fault {α β : Type} {o : Out α} {k : α → Out β} {r : Fault} :
    andThen o k = .fault r ↔ o = .fault r ∨ ∃ a, o = .next a ∧ k a = .fault r := by
  cases o <;> simp

theorem andThen_eq_refused {α β : Type} {o : Out α} {k : α → Out β} {r : Refusal} :
    andThen o k = .refused r ↔ o = .refused r ∨ ∃ a, o = .next a ∧ k a = .refused r := by
  cases o <;> simp

theorem andThen_assoc {α β γ : Type} (o : Out α) (k : α → Out β) (l : β → Out γ) :
    andThen (andThen o k) l = andThen o (fun a => andThen (k a) l) := by
  cases o <;> rfl

@[simp] theorem andThen_pure {α : Type} (o : Out α) : andThen o .next = o := by
  cases o <;> rfl

@[simp] theorem mapOut_next {α β : Type} (f : α → β) (a : α) : mapOut f (.next a : Out α) = .next (f a) := rfl
@[simp] theorem mapOut_fault {α β : Type} (f : α → β) (r : Fault) : mapOut f (.fault r : Out α) = .fault r := rfl
@[simp] theorem mapOut_refused {α β : Type} (f : α → β) (r : Refusal) : mapOut f (.refused r : Out α) = .refused r := rfl

theorem mapOut_eq_next {α β : Type} {f : α → β} {o : Out α} {b : β} :
    mapOut f o = .next b ↔ ∃ a, o = .next a ∧ f a = b := by
  cases o <;> simp

theorem mapOut_eq_fault {α β : Type} {f : α → β} {o : Out α} {r : Fault} : mapOut f o = .fault r ↔ o = .fault r := by
  cases o <;> simp

theorem mapOut_mapOut {α β γ : Type} (f : α → β) (g : β → γ) (o : Out α) : mapOut g (mapOut f o) = mapOut (g ∘ f) o := by
  cases o <;> rfl

theorem andThen_mapOut {α β γ : Type} (f : α → β) (o : Out α) (k : β → Out γ) :
    andThen (mapOut f o) k = andThen o (fun a => k (f a)) := by
  cases o <;> rfl

theorem mapOut_andThen {α β γ : Type} (f : β → γ) (o : Out α) (k : α → Out β) :
    mapOut f (andThen o k) = andThen o (fun a => mapOut f (k a)) := by
  cases o <;> rfl

end Sys2Proof.Machine
end

