-- ==== Sys2Proof/Laws/State.lean ====
section
/-! SUPPORT. One lemma for each field of State and each named update of it (Machine/Ops.lean), each true by unfolding the update once:
simp reads a field through any tower of updates with them. -/

namespace Sys2Proof.Machine

variable {F : Type}

@[simp] theorem State.setFs_fs (s : State F) (v : Option F) : (s.setFs v).fs = v := rfl
@[simp] theorem State.setFs_p (s : State F) (v : Option F) : (s.setFs v).p = s.p := rfl
@[simp] theorem State.setFs_act (s : State F) (v : Option F) : (s.setFs v).act = s.act := rfl
@[simp] theorem State.setFs_coef (s : State F) (v : Option F) : (s.setFs v).coef = s.coef := rfl
@[simp] theorem State.setFs_z (s : State F) (v : Option F) : (s.setFs v).z = s.z := rfl
@[simp] theorem State.setFs_seq (s : State F) (v : Option F) : (s.setFs v).seq = s.seq := rfl
@[simp] theorem State.setFs_buf (s : State F) (v : Option F) : (s.setFs v).buf = s.buf := rfl
@[simp] theorem State.setFs_built (s : State F) (v : Option F) : (s.setFs v).built = s.built := rfl
@[simp] theorem State.setFs_opa (s : State F) (v : Option F) : (s.setFs v).opa = s.opa := rfl
@[simp] theorem State.setFs_opb (s : State F) (v : Option F) : (s.setFs v).opb = s.opb := rfl
@[simp] theorem State.setFs_len (s : State F) (v : Option F) : (s.setFs v).len = s.len := rfl
@[simp] theorem State.setFs_pdata (s : State F) (v : Option F) : (s.setFs v).pdata = s.pdata := rfl
@[simp] theorem State.setFs_rsa (s : State F) (v : Option F) : (s.setFs v).rsa = s.rsa := rfl
@[simp] theorem State.setFs_rsb (s : State F) (v : Option F) : (s.setFs v).rsb = s.rsb := rfl
@[simp] theorem State.setFs_rdata (s : State F) (v : Option F) : (s.setFs v).rdata = s.rdata := rfl
@[simp] theorem State.setFs_audIn (s : State F) (v : Option F) : (s.setFs v).audIn = s.audIn := rfl
@[simp] theorem State.setFs_ctlIn (s : State F) (v : Option F) : (s.setFs v).ctlIn = s.ctlIn := rfl
@[simp] theorem State.setFs_latches (s : State F) (v : Option F) : (s.setFs v).latches = s.latches := rfl

@[simp] theorem State.setParam_fs (s : State F) (i : Fin 11) (v : F) : (s.setParam i v).fs = s.fs := rfl
@[simp] theorem State.setParam_p (s : State F) (i : Fin 11) (v : F) : (s.setParam i v).p = s.p.set i v := rfl
@[simp] theorem State.setParam_act (s : State F) (i : Fin 11) (v : F) : (s.setParam i v).act = s.act := rfl
@[simp] theorem State.setParam_coef (s : State F) (i : Fin 11) (v : F) : (s.setParam i v).coef = s.coef := rfl
@[simp] theorem State.setParam_z (s : State F) (i : Fin 11) (v : F) : (s.setParam i v).z = s.z := rfl
@[simp] theorem State.setParam_seq (s : State F) (i : Fin 11) (v : F) : (s.setParam i v).seq = s.seq := rfl
@[simp] theorem State.setParam_buf (s : State F) (i : Fin 11) (v : F) : (s.setParam i v).buf = s.buf := rfl
@[simp] theorem State.setParam_built (s : State F) (i : Fin 11) (v : F) : (s.setParam i v).built = s.built := rfl
@[simp] theorem State.setParam_opa (s : State F) (i : Fin 11) (v : F) : (s.setParam i v).opa = s.opa := rfl
@[simp] theorem State.setParam_opb (s : State F) (i : Fin 11) (v : F) : (s.setParam i v).opb = s.opb := rfl
@[simp] theorem State.setParam_len (s : State F) (i : Fin 11) (v : F) : (s.setParam i v).len = s.len := rfl
@[simp] theorem State.setParam_pdata (s : State F) (i : Fin 11) (v : F) : (s.setParam i v).pdata = s.pdata := rfl
@[simp] theorem State.setParam_rsa (s : State F) (i : Fin 11) (v : F) : (s.setParam i v).rsa = s.rsa := rfl
@[simp] theorem State.setParam_rsb (s : State F) (i : Fin 11) (v : F) : (s.setParam i v).rsb = s.rsb := rfl
@[simp] theorem State.setParam_rdata (s : State F) (i : Fin 11) (v : F) : (s.setParam i v).rdata = s.rdata := rfl
@[simp] theorem State.setParam_audIn (s : State F) (i : Fin 11) (v : F) : (s.setParam i v).audIn = s.audIn := rfl
@[simp] theorem State.setParam_ctlIn (s : State F) (i : Fin 11) (v : F) : (s.setParam i v).ctlIn = s.ctlIn := rfl
@[simp] theorem State.setParam_latches (s : State F) (i : Fin 11) (v : F) : (s.setParam i v).latches = s.latches := rfl

@[simp] theorem State.setAct_fs (s : State F) (i : Fin 11) (v : Option F) : (s.setAct i v).fs = s.fs := rfl
@[simp] theorem State.setAct_p (s : State F) (i : Fin 11) (v : Option F) : (s.setAct i v).p = s.p := rfl
@[simp] theorem State.setAct_act (s : State F) (i : Fin 11) (v : Option F) : (s.setAct i v).act = s.act.set i v := rfl
@[simp] theorem State.setAct_coef (s : State F) (i : Fin 11) (v : Option F) : (s.setAct i v).coef = s.coef := rfl
@[simp] theorem State.setAct_z (s : State F) (i : Fin 11) (v : Option F) : (s.setAct i v).z = s.z := rfl
@[simp] theorem State.setAct_seq (s : State F) (i : Fin 11) (v : Option F) : (s.setAct i v).seq = s.seq := rfl
@[simp] theorem State.setAct_buf (s : State F) (i : Fin 11) (v : Option F) : (s.setAct i v).buf = s.buf := rfl
@[simp] theorem State.setAct_built (s : State F) (i : Fin 11) (v : Option F) : (s.setAct i v).built = s.built := rfl
@[simp] theorem State.setAct_opa (s : State F) (i : Fin 11) (v : Option F) : (s.setAct i v).opa = s.opa := rfl
@[simp] theorem State.setAct_opb (s : State F) (i : Fin 11) (v : Option F) : (s.setAct i v).opb = s.opb := rfl
@[simp] theorem State.setAct_len (s : State F) (i : Fin 11) (v : Option F) : (s.setAct i v).len = s.len := rfl
@[simp] theorem State.setAct_pdata (s : State F) (i : Fin 11) (v : Option F) : (s.setAct i v).pdata = s.pdata := rfl
@[simp] theorem State.setAct_rsa (s : State F) (i : Fin 11) (v : Option F) : (s.setAct i v).rsa = s.rsa := rfl
@[simp] theorem State.setAct_rsb (s : State F) (i : Fin 11) (v : Option F) : (s.setAct i v).rsb = s.rsb := rfl
@[simp] theorem State.setAct_rdata (s : State F) (i : Fin 11) (v : Option F) : (s.setAct i v).rdata = s.rdata := rfl
@[simp] theorem State.setAct_audIn (s : State F) (i : Fin 11) (v : Option F) : (s.setAct i v).audIn = s.audIn := rfl
@[simp] theorem State.setAct_ctlIn (s : State F) (i : Fin 11) (v : Option F) : (s.setAct i v).ctlIn = s.ctlIn := rfl
@[simp] theorem State.setAct_latches (s : State F) (i : Fin 11) (v : Option F) : (s.setAct i v).latches = s.latches := rfl

@[simp] theorem State.setCoef_fs (s : State F) (k : Fin 3) (c : Option (Coef F)) : (s.setCoef k c).fs = s.fs := rfl
@[simp] theorem State.setCoef_p (s : State F) (k : Fin 3) (c : Option (Coef F)) : (s.setCoef k c).p = s.p := rfl
@[simp] theorem State.setCoef_act (s : State F) (k : Fin 3) (c : Option (Coef F)) : (s.setCoef k c).act = s.act := rfl
@[simp] theorem State.setCoef_coef (s : State F) (k : Fin 3) (c : Option (Coef F)) : (s.setCoef k c).coef = s.coef.set k c := rfl
@[simp] theorem State.setCoef_z (s : State F) (k : Fin 3) (c : Option (Coef F)) : (s.setCoef k c).z = s.z := rfl
@[simp] theorem State.setCoef_seq (s : State F) (k : Fin 3) (c : Option (Coef F)) : (s.setCoef k c).seq = s.seq := rfl
@[simp] theorem State.setCoef_buf (s : State F) (k : Fin 3) (c : Option (Coef F)) : (s.setCoef k c).buf = s.buf := rfl
@[simp] theorem State.setCoef_built (s : State F) (k : Fin 3) (c : Option (Coef F)) : (s.setCoef k c).built = s.built := rfl
@[simp] theorem State.setCoef_opa (s : State F) (k : Fin 3) (c : Option (Coef F)) : (s.setCoef k c).opa = s.opa := rfl
@[simp] theorem State.setCoef_opb (s : State F) (k : Fin 3) (c : Option (Coef F)) : (s.setCoef k c).opb = s.opb := rfl
@[simp] theorem State.setCoef_len (s : State F) (k : Fin 3) (c : Option (Coef F)) : (s.setCoef k c).len = s.len := rfl
@[simp] theorem State.setCoef_pdata (s : State F) (k : Fin 3) (c : Option (Coef F)) : (s.setCoef k c).pdata = s.pdata := rfl
@[simp] theorem State.setCoef_rsa (s : State F) (k : Fin 3) (c : Option (Coef F)) : (s.setCoef k c).rsa = s.rsa := rfl
@[simp] theorem State.setCoef_rsb (s : State F) (k : Fin 3) (c : Option (Coef F)) : (s.setCoef k c).rsb = s.rsb := rfl
@[simp] theorem State.setCoef_rdata (s : State F) (k : Fin 3) (c : Option (Coef F)) : (s.setCoef k c).rdata = s.rdata := rfl
@[simp] theorem State.setCoef_audIn (s : State F) (k : Fin 3) (c : Option (Coef F)) : (s.setCoef k c).audIn = s.audIn := rfl
@[simp] theorem State.setCoef_ctlIn (s : State F) (k : Fin 3) (c : Option (Coef F)) : (s.setCoef k c).ctlIn = s.ctlIn := rfl
@[simp] theorem State.setCoef_latches (s : State F) (k : Fin 3) (c : Option (Coef F)) : (s.setCoef k c).latches = s.latches := rfl

@[simp] theorem State.setZ_fs (s : State F) (k : Fin 3) (v : ZPair F) : (s.setZ k v).fs = s.fs := rfl
@[simp] theorem State.setZ_p (s : State F) (k : Fin 3) (v : ZPair F) : (s.setZ k v).p = s.p := rfl
@[simp] theorem State.setZ_act (s : State F) (k : Fin 3) (v : ZPair F) : (s.setZ k v).act = s.act := rfl
@[simp] theorem State.setZ_coef (s : State F) (k : Fin 3) (v : ZPair F) : (s.setZ k v).coef = s.coef := rfl
@[simp] theorem State.setZ_z (s : State F) (k : Fin 3) (v : ZPair F) : (s.setZ k v).z = s.z.set k v := rfl
@[simp] theorem State.setZ_seq (s : State F) (k : Fin 3) (v : ZPair F) : (s.setZ k v).seq = s.seq := rfl
@[simp] theorem State.setZ_buf (s : State F) (k : Fin 3) (v : ZPair F) : (s.setZ k v).buf = s.buf := rfl
@[simp] theorem State.setZ_built (s : State F) (k : Fin 3) (v : ZPair F) : (s.setZ k v).built = s.built := rfl
@[simp] theorem State.setZ_opa (s : State F) (k : Fin 3) (v : ZPair F) : (s.setZ k v).opa = s.opa := rfl
@[simp] theorem State.setZ_opb (s : State F) (k : Fin 3) (v : ZPair F) : (s.setZ k v).opb = s.opb := rfl
@[simp] theorem State.setZ_len (s : State F) (k : Fin 3) (v : ZPair F) : (s.setZ k v).len = s.len := rfl
@[simp] theorem State.setZ_pdata (s : State F) (k : Fin 3) (v : ZPair F) : (s.setZ k v).pdata = s.pdata := rfl
@[simp] theorem State.setZ_rsa (s : State F) (k : Fin 3) (v : ZPair F) : (s.setZ k v).rsa = s.rsa := rfl
@[simp] theorem State.setZ_rsb (s : State F) (k : Fin 3) (v : ZPair F) : (s.setZ k v).rsb = s.rsb := rfl
@[simp] theorem State.setZ_rdata (s : State F) (k : Fin 3) (v : ZPair F) : (s.setZ k v).rdata = s.rdata := rfl
@[simp] theorem State.setZ_audIn (s : State F) (k : Fin 3) (v : ZPair F) : (s.setZ k v).audIn = s.audIn := rfl
@[simp] theorem State.setZ_ctlIn (s : State F) (k : Fin 3) (v : ZPair F) : (s.setZ k v).ctlIn = s.ctlIn := rfl
@[simp] theorem State.setZ_latches (s : State F) (k : Fin 3) (v : ZPair F) : (s.setZ k v).latches = s.latches := rfl

@[simp] theorem State.setSeq_fs (s : State F) (q : Seq) : (s.setSeq q).fs = s.fs := rfl
@[simp] theorem State.setSeq_p (s : State F) (q : Seq) : (s.setSeq q).p = s.p := rfl
@[simp] theorem State.setSeq_act (s : State F) (q : Seq) : (s.setSeq q).act = s.act := rfl
@[simp] theorem State.setSeq_coef (s : State F) (q : Seq) : (s.setSeq q).coef = s.coef := rfl
@[simp] theorem State.setSeq_z (s : State F) (q : Seq) : (s.setSeq q).z = s.z := rfl
@[simp] theorem State.setSeq_seq (s : State F) (q : Seq) : (s.setSeq q).seq = q := rfl
@[simp] theorem State.setSeq_buf (s : State F) (q : Seq) : (s.setSeq q).buf = s.buf := rfl
@[simp] theorem State.setSeq_built (s : State F) (q : Seq) : (s.setSeq q).built = s.built := rfl
@[simp] theorem State.setSeq_opa (s : State F) (q : Seq) : (s.setSeq q).opa = s.opa := rfl
@[simp] theorem State.setSeq_opb (s : State F) (q : Seq) : (s.setSeq q).opb = s.opb := rfl
@[simp] theorem State.setSeq_len (s : State F) (q : Seq) : (s.setSeq q).len = s.len := rfl
@[simp] theorem State.setSeq_pdata (s : State F) (q : Seq) : (s.setSeq q).pdata = s.pdata := rfl
@[simp] theorem State.setSeq_rsa (s : State F) (q : Seq) : (s.setSeq q).rsa = s.rsa := rfl
@[simp] theorem State.setSeq_rsb (s : State F) (q : Seq) : (s.setSeq q).rsb = s.rsb := rfl
@[simp] theorem State.setSeq_rdata (s : State F) (q : Seq) : (s.setSeq q).rdata = s.rdata := rfl
@[simp] theorem State.setSeq_audIn (s : State F) (q : Seq) : (s.setSeq q).audIn = s.audIn := rfl
@[simp] theorem State.setSeq_ctlIn (s : State F) (q : Seq) : (s.setSeq q).ctlIn = s.ctlIn := rfl
@[simp] theorem State.setSeq_latches (s : State F) (q : Seq) : (s.setSeq q).latches = s.latches := rfl

@[simp] theorem State.setBuf_fs (s : State F) (b : List (Nat × F)) : (s.setBuf b).fs = s.fs := rfl
@[simp] theorem State.setBuf_p (s : State F) (b : List (Nat × F)) : (s.setBuf b).p = s.p := rfl
@[simp] theorem State.setBuf_act (s : State F) (b : List (Nat × F)) : (s.setBuf b).act = s.act := rfl
@[simp] theorem State.setBuf_coef (s : State F) (b : List (Nat × F)) : (s.setBuf b).coef = s.coef := rfl
@[simp] theorem State.setBuf_z (s : State F) (b : List (Nat × F)) : (s.setBuf b).z = s.z := rfl
@[simp] theorem State.setBuf_seq (s : State F) (b : List (Nat × F)) : (s.setBuf b).seq = s.seq := rfl
@[simp] theorem State.setBuf_buf (s : State F) (b : List (Nat × F)) : (s.setBuf b).buf = b := rfl
@[simp] theorem State.setBuf_built (s : State F) (b : List (Nat × F)) : (s.setBuf b).built = s.built := rfl
@[simp] theorem State.setBuf_opa (s : State F) (b : List (Nat × F)) : (s.setBuf b).opa = s.opa := rfl
@[simp] theorem State.setBuf_opb (s : State F) (b : List (Nat × F)) : (s.setBuf b).opb = s.opb := rfl
@[simp] theorem State.setBuf_len (s : State F) (b : List (Nat × F)) : (s.setBuf b).len = s.len := rfl
@[simp] theorem State.setBuf_pdata (s : State F) (b : List (Nat × F)) : (s.setBuf b).pdata = s.pdata := rfl
@[simp] theorem State.setBuf_rsa (s : State F) (b : List (Nat × F)) : (s.setBuf b).rsa = s.rsa := rfl
@[simp] theorem State.setBuf_rsb (s : State F) (b : List (Nat × F)) : (s.setBuf b).rsb = s.rsb := rfl
@[simp] theorem State.setBuf_rdata (s : State F) (b : List (Nat × F)) : (s.setBuf b).rdata = s.rdata := rfl
@[simp] theorem State.setBuf_audIn (s : State F) (b : List (Nat × F)) : (s.setBuf b).audIn = s.audIn := rfl
@[simp] theorem State.setBuf_ctlIn (s : State F) (b : List (Nat × F)) : (s.setBuf b).ctlIn = s.ctlIn := rfl
@[simp] theorem State.setBuf_latches (s : State F) (b : List (Nat × F)) : (s.setBuf b).latches = s.latches := rfl

@[simp] theorem State.setPdata_fs (s : State F) (v : F) : (s.setPdata v).fs = s.fs := rfl
@[simp] theorem State.setPdata_p (s : State F) (v : F) : (s.setPdata v).p = s.p := rfl
@[simp] theorem State.setPdata_act (s : State F) (v : F) : (s.setPdata v).act = s.act := rfl
@[simp] theorem State.setPdata_coef (s : State F) (v : F) : (s.setPdata v).coef = s.coef := rfl
@[simp] theorem State.setPdata_z (s : State F) (v : F) : (s.setPdata v).z = s.z := rfl
@[simp] theorem State.setPdata_seq (s : State F) (v : F) : (s.setPdata v).seq = s.seq := rfl
@[simp] theorem State.setPdata_buf (s : State F) (v : F) : (s.setPdata v).buf = s.buf := rfl
@[simp] theorem State.setPdata_built (s : State F) (v : F) : (s.setPdata v).built = s.built := rfl
@[simp] theorem State.setPdata_opa (s : State F) (v : F) : (s.setPdata v).opa = s.opa := rfl
@[simp] theorem State.setPdata_opb (s : State F) (v : F) : (s.setPdata v).opb = s.opb := rfl
@[simp] theorem State.setPdata_len (s : State F) (v : F) : (s.setPdata v).len = s.len := rfl
@[simp] theorem State.setPdata_pdata (s : State F) (v : F) : (s.setPdata v).pdata = v := rfl
@[simp] theorem State.setPdata_rsa (s : State F) (v : F) : (s.setPdata v).rsa = s.rsa := rfl
@[simp] theorem State.setPdata_rsb (s : State F) (v : F) : (s.setPdata v).rsb = s.rsb := rfl
@[simp] theorem State.setPdata_rdata (s : State F) (v : F) : (s.setPdata v).rdata = s.rdata := rfl
@[simp] theorem State.setPdata_audIn (s : State F) (v : F) : (s.setPdata v).audIn = s.audIn := rfl
@[simp] theorem State.setPdata_ctlIn (s : State F) (v : F) : (s.setPdata v).ctlIn = s.ctlIn := rfl
@[simp] theorem State.setPdata_latches (s : State F) (v : F) : (s.setPdata v).latches = s.latches := rfl

@[simp] theorem State.setCtlIn_fs (s : State F) (q : List (Nat × ParamTx F)) : (s.setCtlIn q).fs = s.fs := rfl
@[simp] theorem State.setCtlIn_p (s : State F) (q : List (Nat × ParamTx F)) : (s.setCtlIn q).p = s.p := rfl
@[simp] theorem State.setCtlIn_act (s : State F) (q : List (Nat × ParamTx F)) : (s.setCtlIn q).act = s.act := rfl
@[simp] theorem State.setCtlIn_coef (s : State F) (q : List (Nat × ParamTx F)) : (s.setCtlIn q).coef = s.coef := rfl
@[simp] theorem State.setCtlIn_z (s : State F) (q : List (Nat × ParamTx F)) : (s.setCtlIn q).z = s.z := rfl
@[simp] theorem State.setCtlIn_seq (s : State F) (q : List (Nat × ParamTx F)) : (s.setCtlIn q).seq = s.seq := rfl
@[simp] theorem State.setCtlIn_buf (s : State F) (q : List (Nat × ParamTx F)) : (s.setCtlIn q).buf = s.buf := rfl
@[simp] theorem State.setCtlIn_built (s : State F) (q : List (Nat × ParamTx F)) : (s.setCtlIn q).built = s.built := rfl
@[simp] theorem State.setCtlIn_opa (s : State F) (q : List (Nat × ParamTx F)) : (s.setCtlIn q).opa = s.opa := rfl
@[simp] theorem State.setCtlIn_opb (s : State F) (q : List (Nat × ParamTx F)) : (s.setCtlIn q).opb = s.opb := rfl
@[simp] theorem State.setCtlIn_len (s : State F) (q : List (Nat × ParamTx F)) : (s.setCtlIn q).len = s.len := rfl
@[simp] theorem State.setCtlIn_pdata (s : State F) (q : List (Nat × ParamTx F)) : (s.setCtlIn q).pdata = s.pdata := rfl
@[simp] theorem State.setCtlIn_rsa (s : State F) (q : List (Nat × ParamTx F)) : (s.setCtlIn q).rsa = s.rsa := rfl
@[simp] theorem State.setCtlIn_rsb (s : State F) (q : List (Nat × ParamTx F)) : (s.setCtlIn q).rsb = s.rsb := rfl
@[simp] theorem State.setCtlIn_rdata (s : State F) (q : List (Nat × ParamTx F)) : (s.setCtlIn q).rdata = s.rdata := rfl
@[simp] theorem State.setCtlIn_audIn (s : State F) (q : List (Nat × ParamTx F)) : (s.setCtlIn q).audIn = s.audIn := rfl
@[simp] theorem State.setCtlIn_ctlIn (s : State F) (q : List (Nat × ParamTx F)) : (s.setCtlIn q).ctlIn = q := rfl
@[simp] theorem State.setCtlIn_latches (s : State F) (q : List (Nat × ParamTx F)) : (s.setCtlIn q).latches = s.latches := rfl

@[simp] theorem State.setAudIn_fs (s : State F) (q : List (AudInput F)) : (s.setAudIn q).fs = s.fs := rfl
@[simp] theorem State.setAudIn_p (s : State F) (q : List (AudInput F)) : (s.setAudIn q).p = s.p := rfl
@[simp] theorem State.setAudIn_act (s : State F) (q : List (AudInput F)) : (s.setAudIn q).act = s.act := rfl
@[simp] theorem State.setAudIn_coef (s : State F) (q : List (AudInput F)) : (s.setAudIn q).coef = s.coef := rfl
@[simp] theorem State.setAudIn_z (s : State F) (q : List (AudInput F)) : (s.setAudIn q).z = s.z := rfl
@[simp] theorem State.setAudIn_seq (s : State F) (q : List (AudInput F)) : (s.setAudIn q).seq = s.seq := rfl
@[simp] theorem State.setAudIn_buf (s : State F) (q : List (AudInput F)) : (s.setAudIn q).buf = s.buf := rfl
@[simp] theorem State.setAudIn_built (s : State F) (q : List (AudInput F)) : (s.setAudIn q).built = s.built := rfl
@[simp] theorem State.setAudIn_opa (s : State F) (q : List (AudInput F)) : (s.setAudIn q).opa = s.opa := rfl
@[simp] theorem State.setAudIn_opb (s : State F) (q : List (AudInput F)) : (s.setAudIn q).opb = s.opb := rfl
@[simp] theorem State.setAudIn_len (s : State F) (q : List (AudInput F)) : (s.setAudIn q).len = s.len := rfl
@[simp] theorem State.setAudIn_pdata (s : State F) (q : List (AudInput F)) : (s.setAudIn q).pdata = s.pdata := rfl
@[simp] theorem State.setAudIn_rsa (s : State F) (q : List (AudInput F)) : (s.setAudIn q).rsa = s.rsa := rfl
@[simp] theorem State.setAudIn_rsb (s : State F) (q : List (AudInput F)) : (s.setAudIn q).rsb = s.rsb := rfl
@[simp] theorem State.setAudIn_rdata (s : State F) (q : List (AudInput F)) : (s.setAudIn q).rdata = s.rdata := rfl
@[simp] theorem State.setAudIn_audIn (s : State F) (q : List (AudInput F)) : (s.setAudIn q).audIn = q := rfl
@[simp] theorem State.setAudIn_ctlIn (s : State F) (q : List (AudInput F)) : (s.setAudIn q).ctlIn = s.ctlIn := rfl
@[simp] theorem State.setAudIn_latches (s : State F) (q : List (AudInput F)) : (s.setAudIn q).latches = s.latches := rfl

@[simp] theorem State.setRdata_fs (s : State F) (v : Option F) : (s.setRdata v).fs = s.fs := rfl
@[simp] theorem State.setRdata_p (s : State F) (v : Option F) : (s.setRdata v).p = s.p := rfl
@[simp] theorem State.setRdata_act (s : State F) (v : Option F) : (s.setRdata v).act = s.act := rfl
@[simp] theorem State.setRdata_coef (s : State F) (v : Option F) : (s.setRdata v).coef = s.coef := rfl
@[simp] theorem State.setRdata_z (s : State F) (v : Option F) : (s.setRdata v).z = s.z := rfl
@[simp] theorem State.setRdata_seq (s : State F) (v : Option F) : (s.setRdata v).seq = s.seq := rfl
@[simp] theorem State.setRdata_buf (s : State F) (v : Option F) : (s.setRdata v).buf = s.buf := rfl
@[simp] theorem State.setRdata_built (s : State F) (v : Option F) : (s.setRdata v).built = s.built := rfl
@[simp] theorem State.setRdata_opa (s : State F) (v : Option F) : (s.setRdata v).opa = s.opa := rfl
@[simp] theorem State.setRdata_opb (s : State F) (v : Option F) : (s.setRdata v).opb = s.opb := rfl
@[simp] theorem State.setRdata_len (s : State F) (v : Option F) : (s.setRdata v).len = s.len := rfl
@[simp] theorem State.setRdata_pdata (s : State F) (v : Option F) : (s.setRdata v).pdata = s.pdata := rfl
@[simp] theorem State.setRdata_rsa (s : State F) (v : Option F) : (s.setRdata v).rsa = s.rsa := rfl
@[simp] theorem State.setRdata_rsb (s : State F) (v : Option F) : (s.setRdata v).rsb = s.rsb := rfl
@[simp] theorem State.setRdata_rdata (s : State F) (v : Option F) : (s.setRdata v).rdata = v := rfl
@[simp] theorem State.setRdata_audIn (s : State F) (v : Option F) : (s.setRdata v).audIn = s.audIn := rfl
@[simp] theorem State.setRdata_ctlIn (s : State F) (v : Option F) : (s.setRdata v).ctlIn = s.ctlIn := rfl
@[simp] theorem State.setRdata_latches (s : State F) (v : Option F) : (s.setRdata v).latches = s.latches := rfl

@[simp] theorem State.deliver_fs (s : State F) (a b : Option F) : (s.deliver a b).fs = s.fs := rfl
@[simp] theorem State.deliver_p (s : State F) (a b : Option F) : (s.deliver a b).p = s.p := rfl
@[simp] theorem State.deliver_act (s : State F) (a b : Option F) : (s.deliver a b).act = s.act := rfl
@[simp] theorem State.deliver_coef (s : State F) (a b : Option F) : (s.deliver a b).coef = s.coef := rfl
@[simp] theorem State.deliver_z (s : State F) (a b : Option F) : (s.deliver a b).z = s.z := rfl
@[simp] theorem State.deliver_seq (s : State F) (a b : Option F) : (s.deliver a b).seq = s.seq := rfl
@[simp] theorem State.deliver_buf (s : State F) (a b : Option F) : (s.deliver a b).buf = s.buf := rfl
@[simp] theorem State.deliver_built (s : State F) (a b : Option F) : (s.deliver a b).built = s.built := rfl
@[simp] theorem State.deliver_opa (s : State F) (a b : Option F) : (s.deliver a b).opa = s.opa := rfl
@[simp] theorem State.deliver_opb (s : State F) (a b : Option F) : (s.deliver a b).opb = s.opb := rfl
@[simp] theorem State.deliver_len (s : State F) (a b : Option F) : (s.deliver a b).len = s.len := rfl
@[simp] theorem State.deliver_pdata (s : State F) (a b : Option F) : (s.deliver a b).pdata = s.pdata := rfl
@[simp] theorem State.deliver_rsa (s : State F) (a b : Option F) : (s.deliver a b).rsa = a := rfl
@[simp] theorem State.deliver_rsb (s : State F) (a b : Option F) : (s.deliver a b).rsb = b := rfl
@[simp] theorem State.deliver_rdata (s : State F) (a b : Option F) : (s.deliver a b).rdata = s.rdata := rfl
@[simp] theorem State.deliver_audIn (s : State F) (a b : Option F) : (s.deliver a b).audIn = s.audIn := rfl
@[simp] theorem State.deliver_ctlIn (s : State F) (a b : Option F) : (s.deliver a b).ctlIn = s.ctlIn := rfl
@[simp] theorem State.deliver_latches (s : State F) (a b : Option F) : (s.deliver a b).latches = s.latches := rfl

@[simp] theorem State.countLatch_fs (s : State F) : (s.countLatch).fs = s.fs := rfl
@[simp] theorem State.countLatch_p (s : State F) : (s.countLatch).p = s.p := rfl
@[simp] theorem State.countLatch_act (s : State F) : (s.countLatch).act = s.act := rfl
@[simp] theorem State.countLatch_coef (s : State F) : (s.countLatch).coef = s.coef := rfl
@[simp] theorem State.countLatch_z (s : State F) : (s.countLatch).z = s.z := rfl
@[simp] theorem State.countLatch_seq (s : State F) : (s.countLatch).seq = s.seq := rfl
@[simp] theorem State.countLatch_buf (s : State F) : (s.countLatch).buf = s.buf := rfl
@[simp] theorem State.countLatch_built (s : State F) : (s.countLatch).built = s.built := rfl
@[simp] theorem State.countLatch_opa (s : State F) : (s.countLatch).opa = s.opa := rfl
@[simp] theorem State.countLatch_opb (s : State F) : (s.countLatch).opb = s.opb := rfl
@[simp] theorem State.countLatch_len (s : State F) : (s.countLatch).len = s.len := rfl
@[simp] theorem State.countLatch_pdata (s : State F) : (s.countLatch).pdata = s.pdata := rfl
@[simp] theorem State.countLatch_rsa (s : State F) : (s.countLatch).rsa = s.rsa := rfl
@[simp] theorem State.countLatch_rsb (s : State F) : (s.countLatch).rsb = s.rsb := rfl
@[simp] theorem State.countLatch_rdata (s : State F) : (s.countLatch).rdata = s.rdata := rfl
@[simp] theorem State.countLatch_audIn (s : State F) : (s.countLatch).audIn = s.audIn := rfl
@[simp] theorem State.countLatch_ctlIn (s : State F) : (s.countLatch).ctlIn = s.ctlIn := rfl
@[simp] theorem State.countLatch_latches (s : State F) : (s.countLatch).latches = s.latches + 1 := rfl

@[simp] theorem State.tick_fs (s : State F) : (s.tick).fs = s.fs := rfl
@[simp] theorem State.tick_p (s : State F) : (s.tick).p = s.p := rfl
@[simp] theorem State.tick_act (s : State F) : (s.tick).act = s.act := rfl
@[simp] theorem State.tick_coef (s : State F) : (s.tick).coef = s.coef := rfl
@[simp] theorem State.tick_z (s : State F) : (s.tick).z = s.z := rfl
@[simp] theorem State.tick_seq (s : State F) : (s.tick).seq = s.seq := rfl
@[simp] theorem State.tick_buf (s : State F) : (s.tick).buf = s.buf := rfl
@[simp] theorem State.tick_built (s : State F) : (s.tick).built = s.built := rfl
@[simp] theorem State.tick_opa (s : State F) : (s.tick).opa = s.opa := rfl
@[simp] theorem State.tick_opb (s : State F) : (s.tick).opb = s.opb := rfl
@[simp] theorem State.tick_len (s : State F) : (s.tick).len = s.len := rfl
@[simp] theorem State.tick_pdata (s : State F) : (s.tick).pdata = s.pdata := rfl
@[simp] theorem State.tick_rsa (s : State F) : (s.tick).rsa = s.rsa := rfl
@[simp] theorem State.tick_rsb (s : State F) : (s.tick).rsb = s.rsb := rfl
@[simp] theorem State.tick_rdata (s : State F) : (s.tick).rdata = s.rdata := rfl
@[simp] theorem State.tick_audIn (s : State F) : (s.tick).audIn = s.audIn := rfl
@[simp] theorem State.tick_ctlIn (s : State F) : (s.tick).ctlIn = tickQueue s.ctlIn := rfl
@[simp] theorem State.tick_latches (s : State F) : (s.tick).latches = s.latches := rfl

@[simp] theorem State.present_fs (s : State F) (tx : CmdTx F) : (s.present tx).fs = s.fs := rfl
@[simp] theorem State.present_p (s : State F) (tx : CmdTx F) : (s.present tx).p = s.p := rfl
@[simp] theorem State.present_act (s : State F) (tx : CmdTx F) : (s.present tx).act = s.act := rfl
@[simp] theorem State.present_coef (s : State F) (tx : CmdTx F) : (s.present tx).coef = s.coef := rfl
@[simp] theorem State.present_z (s : State F) (tx : CmdTx F) : (s.present tx).z = s.z := rfl
@[simp] theorem State.present_seq (s : State F) (tx : CmdTx F) : (s.present tx).seq = s.seq := rfl
@[simp] theorem State.present_buf (s : State F) (tx : CmdTx F) : (s.present tx).buf = s.buf := rfl
@[simp] theorem State.present_built (s : State F) (tx : CmdTx F) : (s.present tx).built = s.built := rfl
@[simp] theorem State.present_opa (s : State F) (tx : CmdTx F) : (s.present tx).opa = tx.opa := rfl
@[simp] theorem State.present_opb (s : State F) (tx : CmdTx F) : (s.present tx).opb = tx.opb := rfl
@[simp] theorem State.present_len (s : State F) (tx : CmdTx F) : (s.present tx).len = tx.len := rfl
@[simp] theorem State.present_pdata (s : State F) (tx : CmdTx F) : (s.present tx).pdata = s.pdata := rfl
@[simp] theorem State.present_rsa (s : State F) (tx : CmdTx F) : (s.present tx).rsa = none := rfl
@[simp] theorem State.present_rsb (s : State F) (tx : CmdTx F) : (s.present tx).rsb = none := rfl
@[simp] theorem State.present_rdata (s : State F) (tx : CmdTx F) : (s.present tx).rdata = s.rdata := rfl
@[simp] theorem State.present_audIn (s : State F) (tx : CmdTx F) : (s.present tx).audIn = s.audIn := rfl
@[simp] theorem State.present_ctlIn (s : State F) (tx : CmdTx F) : (s.present tx).ctlIn = tickQueue s.ctlIn := rfl
@[simp] theorem State.present_latches (s : State F) (tx : CmdTx F) : (s.present tx).latches = s.latches := rfl

@[simp] theorem construct_fs (N : Numerics F) (s : State F) : (construct N s).fs = none := rfl
@[simp] theorem construct_p (N : Numerics F) (s : State F) : (construct N s).p = paramDefaults N := rfl
@[simp] theorem construct_act (N : Numerics F) (s : State F) : (construct N s).act = Vector.replicate 11 none := rfl
@[simp] theorem construct_coef (N : Numerics F) (s : State F) : (construct N s).coef = Vector.replicate 3 none := rfl
@[simp] theorem construct_z (N : Numerics F) (s : State F) : (construct N s).z = Vector.replicate 3 (zCleared N) := rfl
@[simp] theorem construct_seq (N : Numerics F) (s : State F) : (construct N s).seq = .idle := rfl
@[simp] theorem construct_buf (N : Numerics F) (s : State F) : (construct N s).buf = s.buf := rfl
@[simp] theorem construct_built (N : Numerics F) (s : State F) : (construct N s).built = true := rfl
@[simp] theorem construct_opa (N : Numerics F) (s : State F) : (construct N s).opa = s.opa := rfl
@[simp] theorem construct_opb (N : Numerics F) (s : State F) : (construct N s).opb = s.opb := rfl
@[simp] theorem construct_len (N : Numerics F) (s : State F) : (construct N s).len = s.len := rfl
@[simp] theorem construct_pdata (N : Numerics F) (s : State F) : (construct N s).pdata = s.pdata := rfl
@[simp] theorem construct_rsa (N : Numerics F) (s : State F) : (construct N s).rsa = s.rsa := rfl
@[simp] theorem construct_rsb (N : Numerics F) (s : State F) : (construct N s).rsb = s.rsb := rfl
@[simp] theorem construct_rdata (N : Numerics F) (s : State F) : (construct N s).rdata = s.rdata := rfl
@[simp] theorem construct_audIn (N : Numerics F) (s : State F) : (construct N s).audIn = s.audIn := rfl
@[simp] theorem construct_ctlIn (N : Numerics F) (s : State F) : (construct N s).ctlIn = s.ctlIn := rfl
@[simp] theorem construct_latches (N : Numerics F) (s : State F) : (construct N s).latches = s.latches := rfl

@[simp] theorem copyParam_fs (s : State F) (i : Fin 11) : (copyParam i s).fs = s.fs := rfl
@[simp] theorem copyParam_p (s : State F) (i : Fin 11) : (copyParam i s).p = s.p := rfl
@[simp] theorem copyParam_act (s : State F) (i : Fin 11) : (copyParam i s).act = s.act.set i (some s.p[i]) := rfl
@[simp] theorem copyParam_coef (s : State F) (i : Fin 11) : (copyParam i s).coef = s.coef := rfl
@[simp] theorem copyParam_z (s : State F) (i : Fin 11) : (copyParam i s).z = s.z := rfl
@[simp] theorem copyParam_seq (s : State F) (i : Fin 11) : (copyParam i s).seq = s.seq := rfl
@[simp] theorem copyParam_buf (s : State F) (i : Fin 11) : (copyParam i s).buf = s.buf := rfl
@[simp] theorem copyParam_built (s : State F) (i : Fin 11) : (copyParam i s).built = s.built := rfl
@[simp] theorem copyParam_opa (s : State F) (i : Fin 11) : (copyParam i s).opa = s.opa := rfl
@[simp] theorem copyParam_opb (s : State F) (i : Fin 11) : (copyParam i s).opb = s.opb := rfl
@[simp] theorem copyParam_len (s : State F) (i : Fin 11) : (copyParam i s).len = s.len := rfl
@[simp] theorem copyParam_pdata (s : State F) (i : Fin 11) : (copyParam i s).pdata = s.pdata := rfl
@[simp] theorem copyParam_rsa (s : State F) (i : Fin 11) : (copyParam i s).rsa = s.rsa := rfl
@[simp] theorem copyParam_rsb (s : State F) (i : Fin 11) : (copyParam i s).rsb = s.rsb := rfl
@[simp] theorem copyParam_rdata (s : State F) (i : Fin 11) : (copyParam i s).rdata = s.rdata := rfl
@[simp] theorem copyParam_audIn (s : State F) (i : Fin 11) : (copyParam i s).audIn = s.audIn := rfl
@[simp] theorem copyParam_ctlIn (s : State F) (i : Fin 11) : (copyParam i s).ctlIn = s.ctlIn := rfl
@[simp] theorem copyParam_latches (s : State F) (i : Fin 11) : (copyParam i s).latches = s.latches := rfl

/-! The fields after reset (10_state.md R36; the model's own by logs 5 to 10). -/

@[simp] theorem State.reset_fs : State.reset.fs = none := rfl
@[simp] theorem State.reset_p : State.reset.p = paramDefaults Config.num := rfl
@[simp] theorem State.reset_act : State.reset.act = Vector.replicate 11 none := rfl
@[simp] theorem State.reset_coef : State.reset.coef = Vector.replicate 3 none := rfl
@[simp] theorem State.reset_z : State.reset.z = Vector.replicate 3 (zCleared Config.num) := rfl
@[simp] theorem State.reset_seq : State.reset.seq = .idle := rfl
@[simp] theorem State.reset_buf : State.reset.buf = [] := rfl
@[simp] theorem State.reset_built : State.reset.built = true := rfl
@[simp] theorem State.reset_opa : State.reset.opa = 0#Config.W := rfl
@[simp] theorem State.reset_opb : State.reset.opb = 0#Config.W := rfl
@[simp] theorem State.reset_len : State.reset.len = 0#32 := rfl
@[simp] theorem State.reset_pdata : State.reset.pdata = 0#Config.W := rfl
@[simp] theorem State.reset_rsa : State.reset.rsa = none := rfl
@[simp] theorem State.reset_rsb : State.reset.rsb = none := rfl
@[simp] theorem State.reset_rdata : State.reset.rdata = none := rfl
@[simp] theorem State.reset_audIn : State.reset.audIn = [] := rfl
@[simp] theorem State.reset_ctlIn : State.reset.ctlIn = [] := rfl
@[simp] theorem State.reset_latches : State.reset.latches = 0 := rfl

end Sys2Proof.Machine
end

