-- ==== Sys2Proof/Laws/Buffer.lean ====
section
/-! SUPPORT. The sample buffer: a read gives the word last written, a write leaves every other word alone, and every write keeps the
canonical form. -/

namespace Sys2Proof.Machine

variable {F : Type} [Inhabited F] [DecidableEq F]

theorem bufWfFrom_cons {lo a : Nat} {v : F} {rest : List (Nat × F)} :
    bufWfFrom lo ((a, v) :: rest) = true ↔
      lo ≤ a ∧ a < 2 * Config.NMAX ∧ v ≠ Config.bufPowerOn a ∧ bufWfFrom (a + 1) rest = true := by
  simp [bufWfFrom, and_assoc]

/-- A canonical list from a higher bound is canonical from a lower one. -/
theorem bufWfFrom_mono {lo lo' : Nat} {b : List (Nat × F)} (h : lo' ≤ lo) (hb : bufWfFrom lo b = true) :
    bufWfFrom lo' b = true := by
  cases b with
  | nil => rfl
  | cons e rest =>
    obtain ⟨h1, h2, h3, h4⟩ := bufWfFrom_cons.mp hb
    exact bufWfFrom_cons.mpr ⟨by omega, h2, h3, h4⟩

/-- Below a canonical list's bound nothing is listed. -/
theorem bufRead_of_lt {lo a : Nat} {b : List (Nat × F)} (hb : bufWfFrom lo b = true) (h : a < lo) :
    bufRead b a = Config.bufPowerOn a := by
  induction b generalizing lo with
  | nil => rfl
  | cons e rest ih =>
    obtain ⟨h1, h2, h3, h4⟩ := bufWfFrom_cons.mp hb
    simp only [bufRead]
    rw [if_neg (by omega)]
    exact ih h4 (by omega)

/-- A read after a write to the same word gives the value written (20_memory.md R52). -/
theorem bufRead_bufWrite_same {lo a : Nat} {v : F} {b : List (Nat × F)} (hb : bufWfFrom lo b = true) :
    bufRead (bufWrite b a v) a = v := by
  induction b generalizing lo with
  | nil =>
    simp only [bufWrite]
    split
    · simp [bufRead, *]
    · simp [bufRead]
  | cons e rest ih =>
    obtain ⟨h1, h2, h3, h4⟩ := bufWfFrom_cons.mp hb
    simp only [bufWrite]
    split
    · split
      · rename_i hlt hv
        simp only [bufRead]
        rw [if_neg (by omega), bufRead_of_lt h4 (by omega), hv]
      · simp [bufRead]
    · split
      · split
        · rename_i hv
          subst_vars
          exact bufRead_of_lt h4 (by omega)
        · simp [bufRead]
      · simp only [bufRead]
        rw [if_neg (by omega)]
        exact ih h4

/-- A write leaves every other word alone (R52). -/
theorem bufRead_bufWrite_other {a c : Nat} {v : F} {b : List (Nat × F)} (h : c ≠ a) :
    bufRead (bufWrite b a v) c = bufRead b c := by
  induction b with
  | nil =>
    simp only [bufWrite]
    split <;> simp [bufRead, h]
  | cons e rest ih =>
    simp only [bufWrite]
    split
    · split <;> simp [bufRead, h]
    · split
      · rename_i hae
        subst hae
        split <;> simp [bufRead, h]
      · simp only [bufRead]
        split
        · rfl
        · exact ih

/-- A write keeps the canonical form. -/
theorem bufWfFrom_bufWrite {lo a : Nat} {v : F} {b : List (Nat × F)} (hb : bufWfFrom lo b = true) (hlo : lo ≤ a)
    (ha : a < 2 * Config.NMAX) : bufWfFrom lo (bufWrite b a v) = true := by
  induction b generalizing lo with
  | nil =>
    simp only [bufWrite]
    split
    · rfl
    · exact bufWfFrom_cons.mpr ⟨hlo, ha, ‹_›, rfl⟩
  | cons e rest ih =>
    obtain ⟨h1, h2, h3, h4⟩ := bufWfFrom_cons.mp hb
    simp only [bufWrite]
    split
    · split
      · exact hb
      · exact bufWfFrom_cons.mpr ⟨hlo, ha, ‹_›, bufWfFrom_cons.mpr ⟨by omega, h2, h3, h4⟩⟩
    · split
      · rename_i hae
        subst hae
        split
        · exact bufWfFrom_mono (by omega) h4
        · exact bufWfFrom_cons.mpr ⟨hlo, ha, ‹_›, h4⟩
      · exact bufWfFrom_cons.mpr ⟨h1, h2, h3, ih h4 (by omega)⟩

theorem bufWf_bufWrite {a : Nat} {v : F} {b : List (Nat × F)} (hb : bufWf b = true) (ha : a < 2 * Config.NMAX) :
    bufWf (bufWrite b a v) = true :=
  bufWfFrom_bufWrite hb (Nat.zero_le a) ha

theorem reset_bufWf : bufWf State.reset.buf = true := rfl

omit [DecidableEq F] in
/-- `MemRead` in range. -/
theorem memRead_eq_next {s : State F} {a : Nat} {v : F} :
    memRead s a = .next v ↔ a < 2 * Config.NMAX ∧ bufRead s.buf a = v := by
  unfold memRead
  split <;> simp [*]

/-- `MemWrite` in range changes the buffer and nothing else. -/
theorem memWrite_eq_next {s t : State F} {a : Nat} {v : F} :
    memWrite s a v = .next t ↔ a < 2 * Config.NMAX ∧ t = s.setBuf (bufWrite s.buf a v) := by
  unfold memWrite
  split <;> simp [*, eq_comm]

omit [DecidableEq F] in
theorem memRead_of_lt {s : State F} {a : Nat} (h : a < 2 * Config.NMAX) : memRead s a = .next (bufRead s.buf a) := by
  simp [memRead, h]

theorem memWrite_of_lt {s : State F} {a : Nat} {v : F} (h : a < 2 * Config.NMAX) :
    memWrite s a v = .next (s.setBuf (bufWrite s.buf a v)) := by
  simp [memWrite, h]

/-- `MemRead` after a `MemWrite`: of the word written, the whole word as given, and of every other word what it read before; no access
takes or leaves a part of a word (R52, R53). -/
theorem memRead_of_memWrite {s t : State F} {a : Nat} {v : F} (hb : bufWf s.buf = true) (h : memWrite s a v = .next t) (c : Nat) :
    memRead t c = if c = a then .next v else memRead s c := by
  obtain ⟨ha, rfl⟩ := memWrite_eq_next.mp h
  by_cases hc : c = a
  · subst hc
    simp [memRead, ha, State.setBuf, bufRead_bufWrite_same (lo := 0) hb]
  · simp [memRead, hc, State.setBuf, bufRead_bufWrite_other hc]

/-- Both words of a frame below `NMAX` are in the buffer (20_memory.md R51, R56). -/
theorem bufAddr_lt {c n : Nat} (hc : c < 2) (hn : n < Config.NMAX) : bufAddr c n < 2 * Config.NMAX := by
  unfold bufAddr
  have : c = 0 ∨ c = 1 := by omega
  rcases this with rfl | rfl <;> omega

/-- Two words of the buffer are the same only if channel and frame are (10_state.md R38). -/
theorem bufAddr_inj {c n d m : Nat} (hn : n < Config.NMAX) (hm : m < Config.NMAX) (hc : c < 2) (hd : d < 2)
    (h : bufAddr c n = bufAddr d m) : c = d ∧ n = m := by
  unfold bufAddr at h
  have h1 : c = 0 ∨ c = 1 := by omega
  have h2 : d = 0 ∨ d = 1 := by omega
  rcases h1 with rfl | rfl <;> rcases h2 with rfl | rfl <;> omega

end Sys2Proof.Machine
end

