-- ==== Sys2Proof/Laws/Units.lean ====
section
/-! SUPPORT. For each shared operation of the units, once, everything it can do when it answers. -/

namespace Sys2Proof.Machine

variable {F : Type}
variable {N : Numerics F}

theorem readWritten_eq_next {α : Type} {r : Option α} {v : α} : readWritten r = .next v ↔ r = some v := by
  cases r <;> simp [readWritten]

@[simp] theorem readWritten_some {α : Type} (v : α) : readWritten (some v) = .next v := rfl
@[simp] theorem readWritten_none {α : Type} : readWritten (none : Option α) = .refused .v3Unwritten := rfl

theorem readWritten_eq_refused {α : Type} {r : Option α} {e : Refusal} : readWritten r = .refused e ↔ r = none ∧ e = .v3Unwritten := by
  cases r <;> simp [readWritten, eq_comm]

theorem readFs_eq_next {s : State F} {v : F} : readFs s = .next v ↔ s.fs = some v := readWritten_eq_next
theorem readAct_eq_next {s : State F} {i : Fin 11} {v : F} : readAct s i = .next v ↔ s.act[i] = some v := readWritten_eq_next
theorem readCoef_eq_next {s : State F} {k : Fin 3} {c : Coef F} : readCoef s k = .next c ↔ s.coef[k] = some c :=
  readWritten_eq_next

/-- A stage that answers has written coefficients; it updates its own `Z[k]` and nothing else (40_biquad.md R101). -/
theorem runStage_eq_next {k : Fin 3} {x y : F} {s t : State F} :
    runStage N k x s = .next (y, t) ↔
      ∃ c, s.coef[k] = some c ∧ y = (biquadStep N c s.z[k] x).1 ∧ t = s.setZ k (biquadStep N c s.z[k] x).2 := by
  simp only [runStage, andThen_eq_next, readCoef_eq_next, Host.Outcome.next.injEq, Prod.mk.injEq]
  exact ⟨fun ⟨c, h, h1, h2⟩ => ⟨c, h, h1.symm, h2.symm⟩, fun ⟨c, h, h1, h2⟩ => ⟨c, h, h1.symm, h2.symm⟩⟩

theorem runStage_of_written {k : Fin 3} {x : F} {s : State F} {c : Coef F} (h : s.coef[k] = some c) :
    runStage N k x s = .next ((biquadStep N c s.z[k] x).1, s.setZ k (biquadStep N c s.z[k] x).2) :=
  runStage_eq_next.mpr ⟨c, h, rfl, rfl⟩

/-- The shelving calculator answers exactly when its three registers are written and the cutoff is legal; it writes its own `COEF[k]`
and nothing else (41_shelving_coef.md R111). -/
theorem calcShelf_eq_next {k : Shelf} {s t : State F} :
    calcShelf N k s = .next t ↔
      ∃ fs G f, s.fs = some fs ∧ s.act[shelfGain k] = some G ∧ s.act[shelfFreq k] = some f ∧ cutoffOk N f fs = true ∧
        t = s.setCoef (shelfStage k) (some (shelfCoef N G f fs)) := by
  simp only [calcShelf, andThen_eq_next, readFs_eq_next, readAct_eq_next]
  constructor
  · rintro ⟨fs, h1, G, h2, f, h3, h4⟩
    split at h4
    · exact ⟨fs, G, f, h1, h2, h3, ‹_›, by simpa using h4.symm⟩
    · simp at h4
  · rintro ⟨fs, G, f, h1, h2, h3, h4, rfl⟩
    exact ⟨fs, h1, G, h2, f, h3, by simp [h4]⟩

/-- The high-pass calculator likewise (42_highpass_coef.md R121). -/
theorem calcHighPass_eq_next {s t : State F} :
    calcHighPass N s = .next t ↔
      ∃ fs f, s.fs = some fs ∧ s.act[highPassFreq] = some f ∧ cutoffOk N f fs = true ∧
        t = s.setCoef 1 (some (highPassCoef N f fs)) := by
  simp only [calcHighPass, andThen_eq_next, readFs_eq_next, readAct_eq_next]
  constructor
  · rintro ⟨fs, h1, f, h2, h3⟩
    split at h3
    · exact ⟨fs, f, h1, h2, ‹_›, by simpa using h3.symm⟩
    · simp at h3
  · rintro ⟨fs, f, h1, h2, h3, rfl⟩
    exact ⟨fs, h1, f, h2, by simp [h3]⟩

/-- The decoder answers exactly when `ACT[10]` is written (43_midside.md R133). -/
theorem decodeFrame_eq_next {m d : F} {s : State F} {r : F × F} :
    decodeFrame N m d s = .next r ↔ ∃ dB, s.act[10] = some dB ∧ r = midSideDecode N dB m d := by
  simp only [decodeFrame, andThen_eq_next, readAct_eq_next, Host.Outcome.next.injEq, eq_comm (b := r)]
  exact Iff.rfl

/-- The saturator's parameters are the five snapshot registers (44_saturator.md R141). -/
theorem readSatParams_eq_next {s : State F} {q : SatParams F} :
    readSatParams s = .next q ↔
      s.act[5] = some q.ampA ∧ s.act[6] = some q.slope ∧ s.act[7] = some q.mix ∧ s.act[8] = some q.ampB ∧ s.act[9] = some q.freq := by
  simp only [readSatParams, andThen_eq_next, readAct_eq_next, Host.Outcome.next.injEq]
  constructor
  · rintro ⟨a, h1, k, h2, m, h3, b, h4, f, h5, rfl⟩
    exact ⟨h1, h2, h3, h4, h5⟩
  · rintro ⟨h1, h2, h3, h4, h5⟩
    exact ⟨_, h1, _, h2, _, h3, _, h4, _, h5, rfl⟩

/-- The saturator answers exactly when its parameters are written. -/
theorem saturateSample_eq_next {x y : F} {s : State F} :
    saturateSample N x s = .next y ↔ ∃ q, readSatParams s = .next q ∧ y = saturate N q x := by
  simp only [saturateSample, andThen_eq_next, Host.Outcome.next.injEq, eq_comm (b := y)]

/-! Why a unit is refused, when it is (60_exceptions.md R172). -/

theorem calcShelf_refused {k : Shelf} {s : State F} {e : Refusal} (h : calcShelf N k s = .refused e) : e = .v3Unwritten ∨ e = .v1Cutoff := by
  simp only [calcShelf, readFs, readAct, readWritten] at h
  repeat' first | (split at h) | simp only [andThen_next, andThen_refused, Host.Outcome.refused.injEq, reduceCtorEq] at h
  all_goals simp [← h]

theorem calcHighPass_refused {s : State F} {e : Refusal} (h : calcHighPass N s = .refused e) : e = .v3Unwritten ∨ e = .v1Cutoff := by
  simp only [calcHighPass, readFs, readAct, readWritten] at h
  repeat' first | (split at h) | simp only [andThen_next, andThen_refused, Host.Outcome.refused.injEq, reduceCtorEq] at h
  all_goals simp [← h]

theorem runStage_refused {k : Fin 3} {x : F} {s : State F} {e : Refusal} (h : runStage N k x s = .refused e) : e = .v3Unwritten := by
  rcases andThen_eq_refused.mp h with h | ⟨c, _, h⟩
  · exact (readWritten_eq_refused.mp h).2
  · cases h

theorem decodeFrame_refused {m d : F} {s : State F} {e : Refusal} (h : decodeFrame N m d s = .refused e) : e = .v3Unwritten := by
  rcases andThen_eq_refused.mp h with h | ⟨c, _, h⟩
  · exact (readWritten_eq_refused.mp h).2
  · cases h

theorem saturateSample_refused {x : F} {s : State F} {e : Refusal} (h : saturateSample N x s = .refused e) : e = .v3Unwritten := by
  simp only [saturateSample, readSatParams, readAct, andThen_eq_refused, readWritten_eq_refused] at h
  aesop

end Sys2Proof.Machine
end

