-- ==== Sys2Proof/Laws/Ports.lean ====
section
/-! SUPPORT. What the ports can do, once each: a `CTL` write that lands changes one parameter, and the audio side's registers never
(20_memory.md R59, item 6). -/

namespace Sys2Proof.Machine

variable {F : Type}

/-- `WRP` that answers has stored the operand whole (45_chain_commands.md R153). -/
theorem execWrpIn_eq_next {p : BitVec 4} {s t : State F} :
    execWrpIn p s = .next t ↔ ∃ i, paramIndex p = some i ∧ t = s.setParam i s.pdata := by
  unfold execWrpIn
  cases paramIndex p <;> simp [eq_comm]

/-- A transaction the parameter port takes is a legal `WRP`. -/
theorem takeParam_eq_next {tx : ParamTx F} {s t : State F} :
    takeParam tx s = .next t ↔
      s.built = true ∧ ∃ a i, decodeWord tx.cw = .ok (.wrp a) ∧ paramIndex a = some i ∧ t = (s.setPdata tx.opa).setParam i tx.opa := by
  unfold takeParam
  generalize decodeWord tx.cw = d
  cases hb : s.built
  · simp
  · simp only [if_true, true_and]
    split
    · simp only [execWrpIn_eq_next, State.setPdata_pdata, Except.ok.injEq, Instr.wrp.injEq]
      constructor
      · rintro ⟨i, h1, h2⟩
        exact ⟨_, i, rfl, h1, h2⟩
      · rintro ⟨a, i, rfl, h2, h3⟩
        exact ⟨i, h2, h3⟩
    · rename_i h
      constructor
      · intro h'
        cases h'
      · rintro ⟨a, i, h1, _⟩
        exact absurd h1 (h a)

/-- The index of a `WRP` that decodes names a parameter (30_encoding.md R75). -/
theorem paramIndex_of_decodes (w : BitVec 8) : ∀ a, decodeWord w = .ok (.wrp a) → ∃ i, paramIndex a = some i := by
  revert w; decide

/-- Why the parameter port refuses a transaction (60_exceptions.md R172, R173): nothing is constructed, or the word is no `WRP`. -/
theorem takeParam_refused {tx : ParamTx F} {s : State F} {e : Refusal} (h : takeParam tx s = .refused e) :
    (e = .v7BeforeReset ∧ s.built = false) ∨ (e = .v5Reserved ∧ ¬ ∃ a, decodeWord tx.cw = .ok (.wrp a)) := by
  unfold takeParam at h
  split at h
  · split at h
    · obtain ⟨i, hi⟩ := paramIndex_of_decodes _ _ (by assumption)
      simp [execWrpIn, hi] at h
    · cases h
      exact .inr ⟨rfl, fun ⟨a, ha⟩ => absurd ha (by simp_all)⟩
  · cases h
    exact .inl ⟨rfl, by simp_all⟩

/-- What a transaction on the parameter port may change: `P`, the port's operand, its queue. -/
structure SameButParams (s t : State F) : Prop where
  fs : t.fs = s.fs
  act : t.act = s.act
  coef : t.coef = s.coef
  z : t.z = s.z
  seq : t.seq = s.seq
  buf : t.buf = s.buf
  built : t.built = s.built
  opa : t.opa = s.opa
  opb : t.opb = s.opb
  len : t.len = s.len
  rsa : t.rsa = s.rsa
  rsb : t.rsb = s.rsb
  rdata : t.rdata = s.rdata
  audIn : t.audIn = s.audIn
  latches : t.latches = s.latches

theorem SameButParams.refl (s : State F) : SameButParams s s :=
  ⟨rfl, rfl, rfl, rfl, rfl, rfl, rfl, rfl, rfl, rfl, rfl, rfl, rfl, rfl, rfl⟩

theorem SameButParams.trans {s t u : State F} (h : SameButParams s t) (g : SameButParams t u) : SameButParams s u :=
  ⟨g.fs.trans h.fs, g.act.trans h.act, g.coef.trans h.coef, g.z.trans h.z, g.seq.trans h.seq, g.buf.trans h.buf,
   g.built.trans h.built, g.opa.trans h.opa, g.opb.trans h.opb, g.len.trans h.len, g.rsa.trans h.rsa, g.rsb.trans h.rsb,
   g.rdata.trans h.rdata, g.audIn.trans h.audIn, g.latches.trans h.latches⟩

theorem SameButParams.setCtlIn (s : State F) (q : List (Nat × ParamTx F)) : SameButParams s (s.setCtlIn q) :=
  ⟨rfl, rfl, rfl, rfl, rfl, rfl, rfl, rfl, rfl, rfl, rfl, rfl, rfl, rfl, rfl⟩

theorem SameButParams.tick (s : State F) : SameButParams s s.tick :=
  ⟨rfl, rfl, rfl, rfl, rfl, rfl, rfl, rfl, rfl, rfl, rfl, rfl, rfl, rfl, rfl⟩

theorem takeParam_same {tx : ParamTx F} {s t : State F} (h : takeParam tx s = .next t) : SameButParams s t := by
  obtain ⟨_, a, i, _, _, rfl⟩ := takeParam_eq_next.mp h
  exact ⟨rfl, rfl, rfl, rfl, rfl, rfl, rfl, rfl, rfl, rfl, rfl, rfl, rfl, rfl, rfl⟩

theorem takeParam_ctlIn {tx : ParamTx F} {s t : State F} (h : takeParam tx s = .next t) : t.ctlIn = s.ctlIn := by
  obtain ⟨_, a, i, _, _, rfl⟩ := takeParam_eq_next.mp h
  rfl

theorem landDueFrom_same {q : List (Nat × ParamTx F)} {s t : State F} (h : landDueFrom q s = .next t) : SameButParams s t := by
  induction q generalizing s with
  | nil =>
    cases h
    exact SameButParams.refl _
  | cons e rest ih =>
    obtain ⟨g, tx⟩ := e
    cases g with
    | succ g =>
      cases h
      exact SameButParams.refl _
    | zero =>
      obtain ⟨u, h1, h2⟩ := andThen_eq_next.mp h
      exact ((SameButParams.setCtlIn s rest).trans (takeParam_same h1)).trans (ih h2)

/-- Between two micro-steps nothing changes but `P` and the parameter port (R58, R59). -/
theorem between_same {s t : State F} (h : between s = .next t) : SameButParams s t := by
  obtain ⟨u, h1, h2⟩ := andThen_eq_next.mp h
  cases h2
  exact (landDueFrom_same h1).trans (SameButParams.tick u)

theorem landDueFrom_refused {q : List (Nat × ParamTx F)} {s : State F} {e : Refusal} (h : landDueFrom q s = .refused e) :
    (e = .v7BeforeReset ∧ s.built = false) ∨ (e = .v5Reserved ∧ ∃ x ∈ q, ¬ ∃ a, decodeWord x.2.cw = .ok (.wrp a)) := by
  induction q generalizing s with
  | nil => cases h
  | cons x rest ih =>
    obtain ⟨g, tx⟩ := x
    cases g with
    | succ g => cases h
    | zero =>
      rcases andThen_eq_refused.mp h with h | ⟨u, h1, h⟩
      · exact (takeParam_refused h).imp_right fun ⟨h2, h3⟩ => ⟨h2, _, List.mem_cons_self, h3⟩
      · exact (ih h).imp (fun ⟨h2, h3⟩ => ⟨h2, (takeParam_same h1).built.symm.trans h3⟩)
          fun ⟨h2, x, hx, h3⟩ => ⟨h2, x, List.mem_cons_of_mem _ hx, h3⟩

/-- The gap before a micro-step is refused only for a `CTL` transaction that is a violation itself. -/
theorem between_refused {s : State F} {e : Refusal} (h : between s = .refused e) :
    (e = .v7BeforeReset ∧ s.built = false) ∨ (e = .v5Reserved ∧ ∃ x ∈ s.ctlIn, ¬ ∃ a, decodeWord x.2.cw = .ok (.wrp a)) := by
  rcases andThen_eq_refused.mp h with h | ⟨u, _, h⟩
  · exact landDueFrom_refused h
  · cases h

/-- What is pending after the due writes have landed was pending before. -/
theorem landDueFrom_pending {q : List (Nat × ParamTx F)} {s t : State F} (hq : s.ctlIn = q) (h : landDueFrom q s = .next t) :
    ∀ x ∈ t.ctlIn, x ∈ q := by
  induction q generalizing s with
  | nil =>
    cases h
    exact fun x hx => hq ▸ hx
  | cons e rest ih =>
    obtain ⟨g, tx⟩ := e
    cases g with
    | succ g =>
      cases h
      exact fun x hx => hq ▸ hx
    | zero =>
      obtain ⟨u, h1, h2⟩ := andThen_eq_next.mp h
      exact fun x hx => List.mem_cons_of_mem _ (ih (takeParam_ctlIn h1) h2 x hx)

/-- A micro-step that counts for those still waiting drops no transaction and changes none. -/
theorem tickQueue_pending (q : List (Nat × ParamTx F)) : ∀ x ∈ tickQueue q, ∃ y ∈ q, x.2 = y.2 := by
  intro x hx
  rcases q with _ | ⟨⟨_ | g, tx⟩, rest⟩ <;> simp [tickQueue] at hx ⊢ <;> rcases hx with rfl | hx <;> first | simp | exact .inr ⟨_, hx⟩

/-- A transaction pending after a gap was pending before it, with some count. -/
theorem between_pending {s t : State F} (h : between s = .next t) : ∀ x ∈ t.ctlIn, ∃ y ∈ s.ctlIn, x.2 = y.2 := by
  obtain ⟨u, h1, h2⟩ := andThen_eq_next.mp h
  cases h2
  intro x hx
  obtain ⟨y, hy, e⟩ := tickQueue_pending _ x hx
  exact ⟨y, landDueFrom_pending rfl h1 y hy, e⟩

/-- With nothing pending on the parameter port nothing lands. -/
theorem between_quiet {s : State F} (h : s.ctlIn = []) : between s = .next s := by
  cases s
  subst h
  rfl

/-- What taking a command can do when it answers (30_encoding.md R77). -/
theorem takeCommand_eq_next {run : Instr → State F → Out (State F)} {tx : CmdTx F} {s t : State F} :
    takeCommand run tx s = .next t ↔
      ∃ i, decodeWord tx.cw = .ok i ∧ (s.built = true ∨ i = .rst) ∧ i.agent = .aud ∧ (s.built = false ∨ s.seq = .idle) ∧
        run i (s.present tx) = .next t := by
  unfold takeCommand
  generalize decodeWord tx.cw = d
  cases d with
  | error e => cases s.built <;> simp
  | ok i =>
    cases hb : s.built <;> cases ha : i.agent <;> by_cases hq : s.seq = .idle <;> by_cases hr : i = .rst <;>
      simp [*, show Instr.rst.agent = .aud from rfl]

/-- A command with a legal word, taken when the port is open, runs on its operands. -/
theorem takeCommand_of_idle {run : Instr → State F → Out (State F)} {tx : CmdTx F} {s : State F} {i : Instr} (hd : decodeWord tx.cw = .ok i)
    (ha : i.agent = .aud) (hb : s.built = true) (hq : s.seq = .idle) : takeCommand run tx s = run i (s.present tx) := by
  simp [takeCommand, hd, ha, hb, hq]

end Sys2Proof.Machine
end

