-- ==== Sys2Proof/Laws/Chain.lean ====
section
/-! SUPPORT. What the sequencer can do: what one micro-step changes, runs of lists of micro-steps cut anywhere, and the induction over a
command's micro-steps packaged once. -/

namespace Sys2Proof.Machine

variable {F : Type} {N : Numerics F}

/-- What no micro-step of `LATCH` or `PROC` changes (10_state.md R35). -/
structure SameOutside (s t : State F) : Prop where
  fs : t.fs = s.fs
  built : t.built = s.built
  opa : t.opa = s.opa
  opb : t.opb = s.opb
  len : t.len = s.len
  rsa : t.rsa = s.rsa
  rsb : t.rsb = s.rsb
  rdata : t.rdata = s.rdata
  audIn : t.audIn = s.audIn
  latches : t.latches = s.latches

theorem SameOutside.refl (s : State F) : SameOutside s s := ⟨rfl, rfl, rfl, rfl, rfl, rfl, rfl, rfl, rfl, rfl⟩

theorem SameOutside.trans {s t u : State F} (h : SameOutside s t) (g : SameOutside t u) : SameOutside s u :=
  ⟨g.fs.trans h.fs, g.built.trans h.built, g.opa.trans h.opa, g.opb.trans h.opb, g.len.trans h.len, g.rsa.trans h.rsa,
   g.rsb.trans h.rsb, g.rdata.trans h.rdata, g.audIn.trans h.audIn, g.latches.trans h.latches⟩

theorem SameButParams.outside {s t : State F} (h : SameButParams s t) : SameOutside s t :=
  ⟨h.fs, h.built, h.opa, h.opb, h.len, h.rsa, h.rsb, h.rdata, h.audIn, h.latches⟩

variable [Inhabited F] [DecidableEq F]

/-- Everything one micro-step can do to the machine's state when it answers: it copies one parameter, writes one coefficient set, updates
one filter state, writes one buffer word of its frame, or changes nothing. -/
theorem micro_cases {n : Nat} {ph : Phase} {w w' : Work F} (h : micro N n ph w = .next w') :
    (∃ p, ph = .lat p ∧ w'.st = copyParam p w.st ∧ w'.tmp = w.tmp) ∨
    (∃ k c, (ph = .cls0 ∨ ph = .chp ∨ ph = .cls2) ∧ w'.st = w.st.setCoef k (some c) ∧ w'.tmp = w.tmp) ∨
    (∃ k v, (ph = .bq0 ∨ ph = .bq1 ∨ ph = .bq2) ∧ w'.st = w.st.setZ k v) ∨
    (∃ c v, (ph = .st0 ∨ ph = .st1) ∧ c < 2 ∧ bufAddr c n < 2 * Config.NMAX ∧
      w'.st = w.st.setBuf (bufWrite w.st.buf (bufAddr c n) v) ∧ w'.tmp = w.tmp) ∨
    w'.st = w.st := by
  cases ph <;> simp only [micro] at h
  case lat p =>
    cases h
    exact .inl ⟨p, rfl, rfl, rfl⟩
  case cls0 =>
    obtain ⟨t, h1, rfl⟩ := mapOut_eq_next.mp h
    obtain ⟨fs, G, f, _, _, _, _, rfl⟩ := calcShelf_eq_next.mp h1
    exact .inr (.inl ⟨_, _, by simp, rfl, rfl⟩)
  case chp =>
    obtain ⟨t, h1, rfl⟩ := mapOut_eq_next.mp h
    obtain ⟨fs, f, _, _, _, rfl⟩ := calcHighPass_eq_next.mp h1
    exact .inr (.inl ⟨_, _, by simp, rfl, rfl⟩)
  case cls2 =>
    obtain ⟨t, h1, rfl⟩ := mapOut_eq_next.mp h
    obtain ⟨fs, G, f, _, _, _, _, rfl⟩ := calcShelf_eq_next.mp h1
    exact .inr (.inl ⟨_, _, by simp, rfl, rfl⟩)
  case bq0 =>
    obtain ⟨⟨y, t⟩, h1, rfl⟩ := mapOut_eq_next.mp h
    obtain ⟨c, _, _, rfl⟩ := runStage_eq_next.mp h1
    exact .inr (.inr (.inl ⟨_, _, by simp, rfl⟩))
  case bq1 =>
    obtain ⟨⟨y, t⟩, h1, rfl⟩ := mapOut_eq_next.mp h
    obtain ⟨c, _, _, rfl⟩ := runStage_eq_next.mp h1
    exact .inr (.inr (.inl ⟨_, _, by simp, rfl⟩))
  case bq2 =>
    obtain ⟨⟨y, t⟩, h1, rfl⟩ := mapOut_eq_next.mp h
    obtain ⟨c, _, _, rfl⟩ := runStage_eq_next.mp h1
    exact .inr (.inr (.inl ⟨_, _, by simp, rfl⟩))
  case st0 =>
    obtain ⟨t, h1, rfl⟩ := mapOut_eq_next.mp h
    obtain ⟨hr, rfl⟩ := memWrite_eq_next.mp h1
    exact .inr (.inr (.inr (.inl ⟨0, _, by simp, by omega, hr, rfl, rfl⟩)))
  case st1 =>
    obtain ⟨t, h1, rfl⟩ := mapOut_eq_next.mp h
    obtain ⟨hr, rfl⟩ := memWrite_eq_next.mp h1
    exact .inr (.inr (.inr (.inl ⟨1, _, by simp, by omega, hr, rfl, rfl⟩)))
  case enc =>
    cases h
    exact .inr (.inr (.inr (.inr rfl)))
  all_goals
    obtain ⟨t, _, rfl⟩ := mapOut_eq_next.mp h
    exact .inr (.inr (.inr (.inr rfl)))

/-- A micro-step changes neither `SEQ`, nor `P`, nor the parameter port. -/
theorem micro_ctl {n : Nat} {ph : Phase} {w w' : Work F} (h : micro N n ph w = .next w') :
    w'.st.seq = w.st.seq ∧ w'.st.p = w.st.p ∧ w'.st.pdata = w.st.pdata ∧ w'.st.ctlIn = w.st.ctlIn := by
  rcases micro_cases h with ⟨p, _, h1, _⟩ | ⟨k, c, _, h1, _⟩ | ⟨k, v, _, h1⟩ | ⟨c, v, _, _, _, h1, _⟩ | h1 <;> rw [h1] <;> simp

theorem micro_outside {n : Nat} {ph : Phase} {w w' : Work F} (h : micro N n ph w = .next w') : SameOutside w.st w'.st := by
  rcases micro_cases h with ⟨p, _, h1, _⟩ | ⟨k, c, _, h1, _⟩ | ⟨k, v, _, h1⟩ | ⟨c, v, _, _, _, h1, _⟩ | h1 <;> rw [h1] <;>
    exact ⟨rfl, rfl, rfl, rfl, rfl, rfl, rfl, rfl, rfl, rfl⟩

/-- A list of micro-steps cut anywhere runs as its two parts, one after the other. -/
theorem runRest_append (a b : List (Nat × Phase)) (w : Work F) : runRest N (a ++ b) w = andThen (runRest N a w) (runRest N b) := by
  induction a generalizing w with
  | nil => rfl
  | cons e rest ih =>
    obtain ⟨n, ph⟩ := e
    simp only [List.cons_append, runRest, andThen_assoc]
    congr 1
    funext s
    congr 1
    funext v
    exact ih v

theorem runPlan_append {e : Nat × Phase} (a b : List (Nat × Phase)) (w : Work F) :
    runPlan N (e :: a ++ b) w = andThen (runPlan N (e :: a) w) (runRest N b) := by
  simp only [List.cons_append, runPlan, andThen_assoc]
  congr 1
  funext v
  exact runRest_append a b v

/-- The induction over a list of micro-steps: a relation of states that is reflexive and transitive, that each gap keeps and that each of
the list's micro-steps keeps, holds between the first state and the last. -/
theorem runRest_induct {R : State F → State F → Prop} (hrefl : ∀ s, R s s) (htrans : ∀ s t u, R s t → R t u → R s u)
    (hgap : ∀ s t q, between (s.setSeq q) = .next t → R s t) (plan : List (Nat × Phase))
    (hmicro : ∀ n ph w w', (n, ph) ∈ plan → micro N n ph w = .next w' → R w.st w'.st) :
    ∀ w w', runRest N plan w = .next w' → R w.st w'.st := by
  induction plan with
  | nil =>
    intro w w' h
    cases h
    exact hrefl _
  | cons e rest ih =>
    obtain ⟨n, ph⟩ := e
    intro w w' h
    obtain ⟨s, h1, h2⟩ := andThen_eq_next.mp h
    obtain ⟨v, h3, h4⟩ := andThen_eq_next.mp h2
    exact htrans _ _ _ (hgap _ _ _ h1) (htrans _ _ _ (hmicro n ph _ v List.mem_cons_self h3)
      (ih (fun n ph w w' hm => hmicro n ph w w' (List.mem_cons_of_mem _ hm)) _ _ h4))

theorem runPlan_induct {R : State F → State F → Prop} (hrefl : ∀ s, R s s) (htrans : ∀ s t u, R s t → R t u → R s u)
    (hgap : ∀ s t q, between (s.setSeq q) = .next t → R s t) (plan : List (Nat × Phase))
    (hmicro : ∀ n ph w w', (n, ph) ∈ plan → micro N n ph w = .next w' → R w.st w'.st) :
    ∀ w w', runPlan N plan w = .next w' → R w.st w'.st := by
  cases plan with
  | nil =>
    intro w w' h
    cases h
    exact hrefl _
  | cons e rest =>
    obtain ⟨n, ph⟩ := e
    intro w w' h
    obtain ⟨v, h1, h2⟩ := andThen_eq_next.mp h
    exact htrans _ _ _ (hmicro n ph _ v List.mem_cons_self h1)
      (runRest_induct hrefl htrans hgap rest (fun n ph w w' hm => hmicro n ph w w' (List.mem_cons_of_mem _ hm)) _ _ h2)

/-- What a command of several micro-steps leaves alone, and that it ends idle (10_state.md R33, R35). -/
theorem runCommand_eq_next {plan : List (Nat × Phase)} {s t : State F} (h : runCommand N plan s = .next t) :
    ∃ w, runPlan N plan ⟨s.countLatch, Temps.blank⟩ = .next w ∧ t = w.st.setSeq .idle := by
  obtain ⟨w, h1, h2⟩ := mapOut_eq_next.mp h
  exact ⟨w, h1, h2.symm⟩

omit [Inhabited F] [DecidableEq F] in
theorem gap_outside {s t : State F} {q : Seq} (h : between (s.setSeq q) = .next t) : SameOutside s t :=
  SameOutside.trans (t := s.setSeq q) ⟨rfl, rfl, rfl, rfl, rfl, rfl, rfl, rfl, rfl, rfl⟩ (between_same h).outside

theorem runRest_outside {plan : List (Nat × Phase)} {w w' : Work F} (h : runRest N plan w = .next w') : SameOutside w.st w'.st :=
  runRest_induct SameOutside.refl (fun _ _ _ => SameOutside.trans) (fun _ _ _ => gap_outside) plan
    (fun _ _ _ _ _ => micro_outside) w w' h

theorem runPlan_outside {plan : List (Nat × Phase)} {w w' : Work F} (h : runPlan N plan w = .next w') : SameOutside w.st w'.st :=
  runPlan_induct SameOutside.refl (fun _ _ _ => SameOutside.trans) (fun _ _ _ => gap_outside) plan
    (fun _ _ _ _ _ => micro_outside) w w' h

end Sys2Proof.Machine
end

