-- ==== Sys2Proof/Laws/PerInstr.lean ====
section
/-! SUPPORT. Statements made per instruction, one lemma per constructor. `Layout` says that a well-formed command's word carries its
operation code and its index where 30_encoding.md R71 puts them, and selects a row of the table of R74 that names the same agent. -/

namespace Sys2Proof.Laws.Layout

/-- The command's word lies in one row of the table, with its fields in their places. -/
def Statement (i : Instr) : Prop :=
  WellFormed i = true →
    opField (encode i) = i.op ∧ argField (encode i) = i.arg ∧
    opcodeRows.any (fun r => r.selects (encode i) && (r.op == i.op) && (r.agent == i.agent)) = true

theorem rst : Statement .rst := by unfold Statement; decide
theorem srate : Statement .srate := by unfold Statement; decide
theorem wrp (p : BitVec 4) : Statement (.wrp p) := by unfold Statement; revert p; decide
theorem latch : Statement .latch := by unfold Statement; decide
theorem cls (k : BitVec 4) : Statement (.cls k) := by unfold Statement; revert k; decide
theorem chp : Statement .chp := by unfold Statement; decide
theorem bq (k : BitVec 4) : Statement (.bq k) := by unfold Statement; revert k; decide
theorem enc : Statement .enc := by unfold Statement; decide
theorem dec : Statement .dec := by unfold Statement; decide
theorem sat : Statement .sat := by unfold Statement; decide
theorem proc : Statement .proc := by unfold Statement; decide

end Sys2Proof.Laws.Layout
end

