-- ==== Sys2Proof/Laws/Sequencer.lean ====
section
/-! SUPPORT. The sequencer when nothing is pending on the parameter port: `SEQ` and the gaps fall away, and a command is the fold of its
micro-steps (`runCommand_quiet`); the snapshot's eleven micro-steps, whatever their order. -/

namespace Sys2Proof.Machine

variable {F : Type} {N : Numerics F}

/-- `SEQ` set in a command in progress. -/
def Work.atSeq (w : Work F) (q : Seq) : Work F := { w with st := w.st.setSeq q }

theorem calcShelf_setSeq (k : Shelf) (s : State F) (q : Seq) :
    calcShelf N k (s.setSeq q) = mapOut (fun t => t.setSeq q) (calcShelf N k s) := by
  simp only [calcShelf, readFs, readAct, readWritten, mapOut, andThen_assoc, State.setSeq_fs, State.setSeq_act]
  cases s.fs <;> cases s.act[shelfGain k] <;> cases s.act[shelfFreq k] <;> simp
  split <;> rfl

theorem calcHighPass_setSeq (s : State F) (q : Seq) :
    calcHighPass N (s.setSeq q) = mapOut (fun t => t.setSeq q) (calcHighPass N s) := by
  simp only [calcHighPass, readFs, readAct, readWritten, mapOut, andThen_assoc, State.setSeq_fs, State.setSeq_act]
  cases s.fs <;> cases s.act[highPassFreq] <;> simp
  split <;> rfl

theorem runStage_setSeq (k : Fin 3) (x : F) (s : State F) (q : Seq) :
    runStage N k x (s.setSeq q) = mapOut (fun r => (r.1, r.2.setSeq q)) (runStage N k x s) := by
  simp only [runStage, readCoef, readWritten, mapOut, andThen_assoc, State.setSeq_coef, State.setSeq_z]
  cases s.coef[k] <;> rfl

variable [Inhabited F] [DecidableEq F]

theorem memWrite_setSeq (s : State F) (a : Nat) (v : F) (q : Seq) :
    memWrite (s.setSeq q) a v = mapOut (fun t => t.setSeq q) (memWrite s a v) := by
  unfold memWrite
  split <;> rfl

/-- No micro-step reads `SEQ`. -/
theorem micro_atSeq (n : Nat) (ph : Phase) (w : Work F) (q : Seq) :
    micro N n ph (w.atSeq q) = mapOut (fun v => v.atSeq q) (micro N n ph w) := by
  cases ph <;>
    simp only [micro, Work.atSeq, calcShelf_setSeq, calcHighPass_setSeq, runStage_setSeq, memWrite_setSeq, mapOut_mapOut] <;> rfl

/-- The micro-steps alone. -/
def microFold (N : Numerics F) : List (Nat × Phase) → Work F → Out (Work F)
  | [], w => .next w
  | (n, ph) :: rest, w => andThen (micro N n ph w) (microFold N rest)

theorem runRest_quiet (plan : List (Nat × Phase)) (w : Work F) (q q' : Seq) (h : w.st.ctlIn = []) :
    mapOut (fun v => v.atSeq q) (runRest N plan (w.atSeq q')) = mapOut (fun v => v.atSeq q) (microFold N plan w) := by
  induction plan generalizing w q' with
  | nil => rfl
  | cons e rest ih =>
    obtain ⟨n, ph⟩ := e
    simp only [runRest, microFold]
    have hb : between ((w.atSeq q').st.setSeq (.run n ph)) = .next (w.st.setSeq (.run n ph)) := by
      rw [between_quiet (by simpa [Work.atSeq] using h)]; rfl
    rw [hb, andThen_next]
    have hm := micro_atSeq (N := N) n ph w (.run n ph)
    have : ({ w.atSeq q' with st := w.st.setSeq (.run n ph) } : Work F) = w.atSeq (.run n ph) := rfl
    rw [this, hm, mapOut_andThen, mapOut_andThen, andThen_mapOut]
    cases hmm : micro N n ph w with
    | next v => exact ih v _ (by rw [(micro_ctl hmm).2.2.2]; exact h)
    | fault r => rfl
    | refused r => rfl

theorem runPlan_quiet (plan : List (Nat × Phase)) (w : Work F) (q : Seq) (h : w.st.ctlIn = []) :
    mapOut (fun v => v.atSeq q) (runPlan N plan w) = mapOut (fun v => v.atSeq q) (microFold N plan w) := by
  cases plan with
  | nil => rfl
  | cons e rest =>
    obtain ⟨n, ph⟩ := e
    simp only [runPlan, microFold, mapOut_andThen]
    cases hmm : micro N n ph w with
    | next v => exact runRest_quiet rest v q v.st.seq (by rw [(micro_ctl hmm).2.2.2]; exact h)
    | fault r => rfl
    | refused r => rfl

theorem runCommand_quiet (plan : List (Nat × Phase)) (s : State F) (h : s.ctlIn = []) :
    runCommand N plan s = mapOut (fun w => w.st.setSeq .idle) (microFold N plan ⟨s.countLatch, Temps.blank⟩) := by
  have := congrArg (mapOut Work.st) (runPlan_quiet (N := N) plan ⟨s.countLatch, Temps.blank⟩ .idle h)
  simp only [mapOut_mapOut] at this
  exact this

theorem microFold_append (a b : List (Nat × Phase)) (w : Work F) : microFold N (a ++ b) w = andThen (microFold N a w) (microFold N b) := by
  induction a generalizing w with
  | nil => rfl
  | cons e rest ih =>
    simp only [List.cons_append, microFold, andThen_assoc]
    congr 1; funext v; exact ih v

/-- A command in progress with another `SEQ` and other pending `CTL` writes. -/
def Work.atCtl (w : Work F) (q : Seq) (c : List (Nat × ParamTx F)) : Work F := { w with st := (w.st.setSeq q).setCtlIn c }

/-- No micro-step reads `SEQ` or the parameter port's queue. -/
theorem micro_atCtl (n : Nat) (ph : Phase) (w : Work F) (q : Seq) (c : List (Nat × ParamTx F)) :
    micro N n ph (w.atCtl q c) = mapOut (fun v => v.atCtl q c) (micro N n ph w) := by
  have h1 : ∀ k (s : State F), calcShelf N k (s.setCtlIn c) = mapOut (fun t => t.setCtlIn c) (calcShelf N k s) := by
    intro k s
    simp only [calcShelf, readFs, readAct, readWritten, mapOut, andThen_assoc, State.setCtlIn_fs, State.setCtlIn_act]
    cases s.fs <;> cases s.act[shelfGain k] <;> cases s.act[shelfFreq k] <;> simp
    split <;> rfl
  have h2 : ∀ s : State F, calcHighPass N (s.setCtlIn c) = mapOut (fun t => t.setCtlIn c) (calcHighPass N s) := by
    intro s
    simp only [calcHighPass, readFs, readAct, readWritten, mapOut, andThen_assoc, State.setCtlIn_fs, State.setCtlIn_act]
    cases s.fs <;> cases s.act[highPassFreq] <;> simp
    split <;> rfl
  have h3 : ∀ k x (s : State F), runStage N k x (s.setCtlIn c) = mapOut (fun r => (r.1, r.2.setCtlIn c)) (runStage N k x s) := by
    intro k x s
    simp only [runStage, readCoef, readWritten, mapOut, andThen_assoc, State.setCtlIn_coef, State.setCtlIn_z]
    cases s.coef[k] <;> rfl
  have h4 : ∀ (s : State F) a v, memWrite (s.setCtlIn c) a v = mapOut (fun t => t.setCtlIn c) (memWrite s a v) := by
    intro s a v
    unfold memWrite
    split <;> rfl
  cases ph <;>
    simp only [micro, Work.atCtl, h1, h2, h3, h4, calcShelf_setSeq, calcHighPass_setSeq, runStage_setSeq, memWrite_setSeq, mapOut_mapOut] <;>
    rfl

/-- While the first pending `CTL` write still has to wait for longer than the micro-steps take, they run as if nothing were pending. -/
theorem runRest_late {plan : List (Nat × Phase)} {w v : Work F} {g : Nat} {tx : ParamTx F} {r : List (Nat × ParamTx F)} (q : Seq)
    (h : microFold N plan w = .next v) (hg : plan.length ≤ g) :
    ∃ q', runRest N plan (w.atCtl q ((g, tx) :: r)) = .next (v.atCtl q' ((g - plan.length, tx) :: r)) := by
  induction plan generalizing w g q with
  | nil =>
    cases h
    exact ⟨q, rfl⟩
  | cons e rest ih =>
    obtain ⟨n, ph⟩ := e
    obtain ⟨u, h1, h2⟩ := andThen_eq_next.mp h
    obtain ⟨g, rfl⟩ : ∃ g', g = g' + 1 := ⟨g - 1, by simp only [List.length_cons] at hg; omega⟩
    obtain ⟨q', h3⟩ := ih (.run n ph) h2 (g := g) (by simpa using hg)
    have hm := micro_atCtl (N := N) n ph w (.run n ph) ((g, tx) :: r)
    rw [h1, mapOut_next] at hm
    refine ⟨q', ?_⟩
    rw [List.length_cons, Nat.add_sub_add_right, ← h3]
    exact congrArg (fun o => andThen o (runRest N rest)) hm

omit [Inhabited F] [DecidableEq F] in
/-- The gap in which the last pending `CTL` write lands: one parameter takes the operand, and nothing is pending any more. -/
theorem between_last {s : State F} {tx : ParamTx F} {a : BitVec 4} {i : Fin 11} (hb : s.built = true) (hc : s.ctlIn = [(0, tx)])
    (hd : decodeWord tx.cw = .ok (.wrp a)) (hi : paramIndex a = some i) :
    between s = .next (((s.setCtlIn []).setPdata tx.opa).setParam i tx.opa) := by
  have h : takeParam tx (s.setCtlIn []) = .next (((s.setCtlIn []).setPdata tx.opa).setParam i tx.opa) :=
    takeParam_eq_next.mpr ⟨hb, a, i, hd, hi, rfl⟩
  simp only [between, hc, landDueFrom, h, andThen_next]
  rfl

/-- The first pending `CTL` write is the last one and lands in the next gap: the rest runs as from the state it leaves. -/
theorem runRest_last {e : Nat × Phase} {plan : List (Nat × Phase)} {w : Work F} {tx : ParamTx F} {a : BitVec 4} {i : Fin 11}
    (hb : w.st.built = true) (hc : w.st.ctlIn = [(0, tx)]) (hd : decodeWord tx.cw = .ok (.wrp a)) (hi : paramIndex a = some i) :
    runRest N (e :: plan) w = runRest N (e :: plan) { w with st := ((w.st.setCtlIn []).setPdata tx.opa).setParam i tx.opa } := by
  obtain ⟨n, ph⟩ := e
  simp only [runRest]
  rw [between_last (s := w.st.setSeq (.run n ph)) hb hc hd hi, between_quiet rfl]
  rfl

/-- Micro-steps during which no `CTL` write falls, though one is pending. -/
theorem runPlan_late {e : Nat × Phase} {plan : List (Nat × Phase)} {w v : Work F} {g : Nat} {tx : ParamTx F} {r : List (Nat × ParamTx F)}
    (hc : w.st.ctlIn = (g, tx) :: r) (h : microFold N (e :: plan) w = .next v) (hg : plan.length ≤ g) :
    ∃ q, runPlan N (e :: plan) w = .next (v.atCtl q ((g - plan.length, tx) :: r)) := by
  obtain ⟨n, ph⟩ := e
  obtain ⟨u, h1, h2⟩ := andThen_eq_next.mp h
  obtain ⟨q, h3⟩ := runRest_late (tx := tx) (r := r) u.st.seq h2 hg
  have hu : u.atCtl u.st.seq ((g, tx) :: r) = u := by
    have hq : u.st.ctlIn = (g, tx) :: r := (micro_ctl h1).2.2.2.trans hc
    simp only [Work.atCtl, State.setSeq, State.setCtlIn, ← hq]
  rw [hu] at h3
  exact ⟨q, by simp only [runPlan, h1, andThen_next, h3]⟩

/-- A command during which no `CTL` write falls, though one is pending. -/
theorem runCommand_late {e : Nat × Phase} {plan : List (Nat × Phase)} {s : State F} {v : Work F} {g : Nat} {tx : ParamTx F}
    {r : List (Nat × ParamTx F)} (hc : s.ctlIn = (g, tx) :: r) (h : microFold N (e :: plan) ⟨s.countLatch, Temps.blank⟩ = .next v)
    (hg : plan.length ≤ g) :
    runCommand N (e :: plan) s = .next ((v.st.setSeq .idle).setCtlIn ((g - plan.length, tx) :: r)) := by
  obtain ⟨q, h1⟩ := runPlan_late hc h hg
  simp only [runCommand, h1, mapOut_next]
  rfl

theorem latch_fold (l : List (Fin 11)) (w : Work F) :
    ∃ a, microFold N (l.map fun p => (0, Phase.lat p)) w = .next { w with st := { w.st with act := a } } ∧
      ∀ p : Fin 11, a[p] = if p ∈ l then some w.st.p[p] else w.st.act[p] := by
  induction l generalizing w with
  | nil => exact ⟨w.st.act, rfl, by simp⟩
  | cons q rest ih =>
    obtain ⟨a, h1, h2⟩ := ih { w with st := copyParam q w.st }
    refine ⟨a, ?_, ?_⟩
    · simp only [List.map_cons, microFold, micro, andThen_next]
      rw [h1]; rfl
    · intro p
      rw [h2]
      by_cases hp : p = q
      · subst hp; simp [copyParam, State.setAct]
      · simp only [List.mem_cons, hp, false_or]
        split
        · rfl
        · have : (q : Nat) ≠ p := fun h => hp (Fin.ext h.symm)
          simp [copyParam, State.setAct, this]

theorem latchPlan_eq (o : Equiv.Perm (Fin 11)) : latchPlan o = ((List.finRange 11).map o).map (fun p => (0, Phase.lat p)) := by
  simp [latchPlan]

theorem latch_quiet (o : Equiv.Perm (Fin 11)) (w : Work F) :
    microFold N (latchPlan o) w = .next { w with st := { w.st with act := w.st.p.map some } } := by
  rw [latchPlan_eq]
  obtain ⟨a, h1, h2⟩ := latch_fold ((List.finRange 11).map o) w
  rw [h1]
  have e : a = w.st.p.map some := by
    ext1 i hi
    have := h2 ⟨i, hi⟩
    have hm : (⟨i, hi⟩ : Fin 11) ∈ (List.finRange 11).map o := by
      simp only [List.mem_map, List.mem_finRange, true_and]; exact ⟨o.symm ⟨i, hi⟩, by simp⟩
    rw [if_pos hm] at this
    simp at this ⊢
    rw [this]
  rw [e]

end Sys2Proof.Machine
end

