-- ==== Sys2Proof/Machine/Work.lean ====
section
/-! DEFINITION. The work of a command, counted in applications of the numerics (70_reset_and_hazards.md R206). It is not timing:
no command reads it. The counts follow the spec's pseudocode as written, so an expression written twice counts twice. -/

namespace Sys2Proof.Machine

/-- How often each member of `NUM` is applied (the columns of R206, then the buffer accesses of a frame). -/
structure OpCount where
  mul : Nat := 0
  div : Nat := 0
  addSub : Nat := 0
  neg : Nat := 0
  sqrt : Nat := 0
  sin : Nat := 0
  cos : Nat := 0
  tanh : Nat := 0
  pow10 : Nat := 0
  bufReads : Nat := 0
  bufWrites : Nat := 0
  /-- register copies of the snapshot -/
  copies : Nat := 0
deriving DecidableEq, Repr

/-- Work done one after another. -/
def OpCount.plus (a b : OpCount) : OpCount :=
  { mul := a.mul + b.mul, div := a.div + b.div, addSub := a.addSub + b.addSub, neg := a.neg + b.neg, sqrt := a.sqrt + b.sqrt
    sin := a.sin + b.sin, cos := a.cos + b.cos, tanh := a.tanh + b.tanh, pow10 := a.pow10 + b.pow10
    bufReads := a.bufReads + b.bufReads, bufWrites := a.bufWrites + b.bufWrites, copies := a.copies + b.copies }

/-- The same work done `n` times. -/
def OpCount.times (a : OpCount) (n : Nat) : OpCount :=
  { mul := n * a.mul, div := n * a.div, addSub := n * a.addSub, neg := n * a.neg, sqrt := n * a.sqrt, sin := n * a.sin
    cos := n * a.cos, tanh := n * a.tanh, pow10 := n * a.pow10, bufReads := n * a.bufReads, bufWrites := n * a.bufWrites
    copies := n * a.copies }

/-- One `BQ k` (R206). -/
def workBq : OpCount := { mul := 5, addSub := 4 }
/-- One `ENC` (R206). -/
def workEnc : OpCount := { div := 2, addSub := 2 }
/-- One `DEC` (R206). -/
def workDec : OpCount := { mul := 2, div := 1, addSub := 2, pow10 := 1 }
/-- One `SAT` (R206). -/
def workSat : OpCount := { mul := 8, addSub := 1, sin := 1, tanh := 1 }
/-- One `CLS k` (R206). -/
def workCls : OpCount := { mul := 12, div := 9, addSub := 12, sqrt := 1, sin := 1, cos := 1, pow10 := 1 }
/-- One `CHP` (R206). -/
def workChp : OpCount := { mul := 4, div := 10, addSub := 3, neg := 1, sin := 1, cos := 1 }
/-- One snapshot: the eleven register copies (R154, R206). -/
def workLatch : OpCount := { copies := 11 }

/-- One frame: encode, three filters, decode, two saturations, and its buffer accesses (R158, R206). -/
def workFrame : OpCount :=
  (((workEnc.plus (workBq.times 3)).plus workDec).plus (workSat.times 2)).plus { bufReads := 2, bufWrites := 2 }

/-- The preamble of a block that is not empty (R158, R206). -/
def workPreamble : OpCount := (workLatch.plus (workCls.times 2)).plus workChp

/-- A whole block of `n` frames; an empty one does nothing (R158, R206). -/
def workProc (n : Nat) : OpCount := if n = 0 then {} else workPreamble.plus (workFrame.times n)

/-- The work of a command issued with block length `n`; `RST`, `SRATE` and `WRP` apply no member of `NUM` (R151 to R153). -/
def workOf (i : Instr) (n : Nat) : OpCount :=
  match i with
  | .rst => {}
  | .srate => {}
  | .wrp _ => {}
  | .latch => workLatch
  | .cls _ => workCls
  | .chp => workChp
  | .bq _ => workBq
  | .enc => workEnc
  | .dec => workDec
  | .sat => workSat
  | .proc => workProc n

end Sys2Proof.Machine
end

