-- ==== Sys2Proof/Tests/Slice0.lean ====
section
/-! SUPPORT. The model's own tests: the well-formedness checks, words written out from the spec's encoding, exact vectors of
95_test_vectors.md, one step of each kind, and for every statement with hypotheses a witness that they can be met together. -/

namespace Sys2Proof.Tests

open Sys2Proof.Machine

/-! Each check of WellFormed.lean refuses an ill-formed command (30_encoding.md R75). -/

theorem test_wellFormed_refuses_param_index : WellFormed (.wrp 11#4) = false ∧ WellFormed (.wrp 10#4) = true := by decide
theorem test_wellFormed_refuses_shelf_index :
    WellFormed (.cls 1#4) = false ∧ WellFormed (.cls 3#4) = false ∧ WellFormed (.cls 2#4) = true := by decide
theorem test_wellFormed_refuses_stage_index : WellFormed (.bq 3#4) = false ∧ WellFormed (.bq 2#4) = true := by decide

/-! Words written out bit by bit from 30_encoding.md R71 and R74, one for every constructor. -/

theorem test_word_rst : decodeWord 0b00000000#8 = .ok .rst := rfl
theorem test_word_srate : decodeWord 0b00010000#8 = .ok .srate := rfl
theorem test_word_wrp : decodeWord 0b00100111#8 = .ok (.wrp 0b0111#4) := rfl
theorem test_word_latch : decodeWord 0b00110000#8 = .ok .latch := rfl
theorem test_word_cls : decodeWord 0b01000010#8 = .ok (.cls 0b0010#4) := rfl
theorem test_word_chp : decodeWord 0b01010000#8 = .ok .chp := rfl
theorem test_word_bq : decodeWord 0b01100001#8 = .ok (.bq 0b0001#4) := rfl
theorem test_word_enc : decodeWord 0b01110000#8 = .ok .enc := rfl
theorem test_word_dec : decodeWord 0b10000000#8 = .ok .dec := rfl
theorem test_word_sat : decodeWord 0b10010000#8 = .ok .sat := rfl
theorem test_word_proc : decodeWord 0b10100000#8 = .ok .proc := rfl

/-- 95_test_vectors.md section 2.7: words that are reserved. -/
theorem test_reserved_words :
    decodeWord 0x01#8 = .error (.reservedArg 0x0#4 0x1#4) ∧ decodeWord 0x2B#8 = .error (.reservedArg 0x2#4 0xB#4) ∧
    decodeWord 0x41#8 = .error (.reservedArg 0x4#4 0x1#4) ∧ decodeWord 0x44#8 = .error (.reservedArg 0x4#4 0x4#4) ∧
    decodeWord 0x63#8 = .error (.reservedArg 0x6#4 0x3#4) ∧ decodeWord 0xA1#8 = .error (.reservedArg 0xA#4 0x1#4) ∧
    decodeWord 0xB0#8 = .error (.reservedOp 0xB#4) ∧ decodeWord 0xFF#8 = .error (.reservedOp 0xF#4) :=
  ⟨rfl, rfl, rfl, rfl, rfl, rfl, rfl, rfl⟩

theorem test_tableWord_bits : decodeTableWord 8 0x62 = some (.bq 2#4) ∧ decodeTableWord 8 0x63 = none := ⟨rfl, rfl⟩

/-- 30_encoding.md R81: two lines of program P1 as they are written. -/
theorem test_line_text :
    (AsmLine.ctlWrp (.named .midGain) (.decimal 0 0)).text = "CTL: WRP MIDGAIN, 0" ∧
    (AsmLine.bq 2#4 (.name "s1") "s2").text = "BQ 2, s1 -> s2" := by decide

/-- R81, R83: lines of text, a comment, an illegal stage, and the two pseudo-instructions with operands. -/
theorem test_line_parse :
    parseLine "CTL: WRP MIDGAIN, 0   ; program P1, line 3" = some [.ctlWrp (.named .midGain) (.decimal 0 0)] ∧
    parseLine "CTL:WRP 0, 1" = some [.ctlWrp (.index 0#4) (.decimal 1 0)] ∧
    parseLine "ENC 1, -1 -> m, s" = some [.enc (.decimal 1 0) (.decimal (-1) 0) "m" "s"] ∧ parseLine "CLS 1" = none ∧
    parseLine "BQ 0, m" = none ∧ parseLine "BEGIN" = some beginLines ∧
    (parseLine "FRAME 1, -1 -> lo, ro").map (fun ls => ls.map fun l => (assemble l).cw) =
      some [0x70#8, 0x60#8, 0x61#8, 0x62#8, 0x80#8, 0x90#8, 0x90#8] := by decide

/-- One name for both results of a line, the model's choice (log 29): the line reads, and the name stands for `RSB`, whatever it stood for. -/
theorem test_line_one_name (s : State) (v w old : Sample) :
    parseLine "ENC 1, -1 -> m, m" = some [.enc (.decimal 1 0) (.decimal (-1) 0) "m" "m"] ∧
    (AsmOperand.name "m").value Config.num
      (bindResults (.enc (.decimal 1 0) (.decimal (-1) 0) "m" "m") { s with rsa := some v, rsb := some w } [("m", old)]) = some w :=
  ⟨by decide, rfl⟩

/-! Exact vectors, in a record of rationals whose transcendental members are not used. -/

/-- Exact rational arithmetic. -/
def ratNum : Numerics ℚ :=
  { lit := id, PI := 0, Q := 0, add := (· + ·), sub := (· - ·), mul := (· * ·), div := (· / ·), neg := (- ·), sqrt := id, sin := id,
    cos := id, tanh := id, pow10 := fun x => if x = 0 then 1 else x, lt := fun a b => a < b, le := fun a b => a ≤ b }

/-- The coefficient set of 95_test_vectors.md section 2.1. -/
def vectorCoef : Coef ℚ := { b0 := 1 / 2, b1 := 1 / 4, b2 := 1 / 8, a0 := 1, a1 := -1 / 2, a2 := 1 / 4 }

/-- Section 2.1, all five rows: outputs, and the state after the last. -/
theorem test_bq_vector :
    stageRun ratNum vectorCoef [1, 0, 0, -2, 1 / 2] ⟨0, 0⟩ = ([1 / 2, 1 / 2, 1 / 4, -1, -13 / 16], ⟨-9 / 32, 17 / 64⟩) := by
  norm_num [stageRun, biquadStep, ratNum, vectorCoef]

/-- Section 2.1, row 3 alone, from the state after row 2. -/
theorem test_bq_row : biquadStep ratNum vectorCoef ⟨0, -1 / 16⟩ (-2) = (-1, ⟨-17 / 16, 0⟩) := by
  norm_num [biquadStep, ratNum, vectorCoef]

/-- Section 1.3: two rows of the codec. -/
theorem test_enc_vector :
    midSideEncode ratNum 1 (-1) = (0, 1) ∧ midSideEncode ratNum (-3 / 4) (1 / 2) = (-1 / 8, -5 / 8) := by
  norm_num [midSideEncode, ratNum]

theorem test_dec_vector : midSideDecode ratNum 0 (-1 / 8) (-5 / 8) = (-3 / 4, 1 / 2) := by
  norm_num [midSideDecode, makeUpGain, ratNum]

/-- Section 2.5, the order of the five parameters: with `tanh` and `sin` the identity, `(0.5 * 7 + 0.25 * 60) * 0.1`. -/
theorem test_sat_order :
    saturate ratNum { ampA := 50, slope := 7, mix := 10, ampB := 25, freq := 60 } 1 = 37 / 20 := by
  norm_num [saturate, satWet, satMix, percent, ratNum]

/-! Small states. -/

/-- A numerics over `Sample` for the witnesses, since the machine's own is open: it tells 48000, 250, 140 and 4000 from every other number,
and counts two different values as ordered. Under it 48000 is a legal rate and 0 and -44100 are not, the default cutoffs are legal at
48000 Hz and 24000 is not, as 95_test_vectors.md sections 2.2 and 2.6 have it. -/
def toyNum : Numerics Sample where
  lit q := if q = 48000 ∨ q = 250 ∨ q = 140 ∨ q = 4000 then 1#Config.W else 0#Config.W
  PI := 0#Config.W
  Q := 0#Config.W
  add _ _ := 0#Config.W
  sub _ _ := 0#Config.W
  mul _ _ := 0#Config.W
  div _ _ := 0#Config.W
  neg _ := 0#Config.W
  sqrt _ := 0#Config.W
  sin _ := 0#Config.W
  cos _ := 0#Config.W
  tanh _ := 0#Config.W
  pow10 _ := 0#Config.W
  lt a b := a != b
  le _ _ := true

theorem one_ne_zero_sample : (1#Config.W : Sample) ≠ 0#Config.W := by
  intro h
  have h1 := congrArg BitVec.toNat h
  simp [Config.W] at h1

theorem toyNum_facts :
    toyNum.lt (toyNum.lit 0) (toyNum.lit 48000) = true ∧ toyNum.lt (toyNum.lit 0) (toyNum.lit 0) = false ∧
    toyNum.lt (toyNum.lit 0) (toyNum.lit (-44100)) = false ∧
    toyNum.lt (toyNum.lit 0) (toyNum.lit 250) = true ∧ toyNum.lt (toyNum.lit 250) (toyNum.div (toyNum.lit 48000) (toyNum.lit 2)) = true ∧
    toyNum.lt (toyNum.lit 0) (toyNum.lit 140) = true ∧ toyNum.lt (toyNum.lit 140) (toyNum.div (toyNum.lit 48000) (toyNum.lit 2)) = true ∧
    toyNum.lt (toyNum.lit 0) (toyNum.lit 4000) = true ∧
    toyNum.lt (toyNum.lit 4000) (toyNum.div (toyNum.lit 48000) (toyNum.lit 2)) = true ∧
    toyNum.lt (toyNum.lit 24000) (toyNum.div (toyNum.lit 48000) (toyNum.lit 2)) = false := by
  have h : (1#Config.W : Sample) ≠ 0#Config.W := one_ne_zero_sample
  have f : ∀ q : Rat, toyNum.lit q = if q = 48000 ∨ q = 250 ∨ q = 140 ∨ q = 4000 then 1#Config.W else 0#Config.W := fun _ => rfl
  have d : ∀ a b, toyNum.div a b = 0#Config.W := fun _ _ => rfl
  have l : ∀ a b, toyNum.lt a b = (a != b) := fun _ _ => rfl
  simp only [d, l, f]
  norm_num [h, h.symm]

/-- `lit q` of that numerics. -/
def lit (q : ℚ) : Sample := toyNum.lit q

/-- The parameter defaults in it. -/
def defaults : Vector Sample 11 := paramDefaults toyNum

/-- After `RST`, `SRATE 48000`, with a block of one frame on the port. -/
def rated : State := { State.reset with p := defaults, fs := some (lit 48000), len := 1#32, opa := lit 48000 }

/-- Then after a `LATCH`. -/
def latched : State := { rated with act := defaults.map some }

/-- Some coefficients. -/
def someCoef : Coef Sample := { b0 := lit (1 / 2), b1 := lit (1 / 4), b2 := lit (1 / 8), a0 := lit 1, a1 := lit (-1 / 2), a2 := lit (1 / 4) }

/-- Then with coefficients. -/
def running : State := { latched with coef := Vector.replicate 3 (some someCoef) }

/-- `WRP 0, 99`. -/
def write99 : ParamTx := ⟨0x20#8, lit 99⟩

/-- A command with operands. -/
def cmd (cw : BitVec 8) (len : BitVec 32) : AudInput := .cmd ⟨cw, lit 48000, lit 0, len⟩

theorem rated_fits : rated.len.toNat ≤ Config.NMAX := Config.one_le_NMAX

theorem default_at (i : Fin 11) : defaults[i] = lit paramDefaultRat[i] := by simp [defaults, paramDefaults, lit]

/-- The default cutoffs are legal at 48000 Hz, whichever side frequency feeds which filter (95_test_vectors.md section 2.6). -/
theorem default_cutoffs :
    cutoffOk toyNum (lit 250) (lit 48000) = true ∧ cutoffOk toyNum (defaults[highPassFreq]) (lit 48000) = true ∧
    cutoffOk toyNum (defaults[shelfFreq .side]) (lit 48000) = true := by
  obtain ⟨h1, h2, h3, h4, h5, h6, h7, h8, h9, h10⟩ := toyNum_facts
  refine ⟨?_, ?_, ?_⟩
  · simp [cutoffOk, lit, *]
  · rw [default_at]
    unfold highPassFreq
    cases Config.sideFreqAssign <;> simp [hpfIndex, paramDefaultRat, cutoffOk, lit, *]
  · rw [default_at]
    unfold shelfFreq
    cases Config.sideFreqAssign <;> simp [ssfIndex, paramDefaultRat, cutoffOk, lit, *]

theorem default_block : blockCutoffsOk toyNum defaults (lit 48000) = true := by
  have h1 : defaults[1] = lit 250 := by simp [defaults, paramDefaults, paramDefaultRat, lit]
  obtain ⟨h2, h3, h4⟩ := default_cutoffs
  simp only [blockCutoffsOk, h1, h2, h3, h4, Bool.and_self]

/-- One frame runs to its end when the registers it reads are written. -/
theorem frame_runs (n : Nat) (w : Work Sample) (hn : n < Config.NMAX) (hc : ∀ k : Fin 3, w.st.coef[k].isSome = true)
    (ha : ∀ i : Fin 11, w.st.act[i].isSome = true) :
    ∃ v, microFold toyNum (framePlan n) w = .next v ∧ v.st.coef = w.st.coef ∧ v.st.act = w.st.act := by
  have h0 : bufAddr 0 n < 2 * Config.NMAX := bufAddr_lt (by omega) hn
  have h1 : bufAddr 1 n < 2 * Config.NMAX := bufAddr_lt (by omega) hn
  obtain ⟨c0, e0⟩ := Option.isSome_iff_exists.mp (hc 0)
  obtain ⟨c1, e1⟩ := Option.isSome_iff_exists.mp (hc 1)
  obtain ⟨c2, e2⟩ := Option.isSome_iff_exists.mp (hc 2)
  obtain ⟨a5, f5⟩ := Option.isSome_iff_exists.mp (ha 5)
  obtain ⟨a6, f6⟩ := Option.isSome_iff_exists.mp (ha 6)
  obtain ⟨a7, f7⟩ := Option.isSome_iff_exists.mp (ha 7)
  obtain ⟨a8, f8⟩ := Option.isSome_iff_exists.mp (ha 8)
  obtain ⟨a9, f9⟩ := Option.isSome_iff_exists.mp (ha 9)
  obtain ⟨a10, f10⟩ := Option.isSome_iff_exists.mp (ha 10)
  simp only [framePlan, microFold, micro, memRead_of_lt h0, memRead_of_lt h1, runStage, readCoef, decodeFrame, saturateSample,
    readSatParams, readAct, State.setZ, memWrite_of_lt h0, memWrite_of_lt h1, State.setBuf, mapOut_next, andThen_next, e0, e1, e2, f5,
    f6, f7, f8, f9, f10, readWritten_some]
  exact ⟨_, rfl, rfl, rfl⟩

theorem frames_run (k n : Nat) (w : Work Sample) (hn : n + k ≤ Config.NMAX) (hc : ∀ k : Fin 3, w.st.coef[k].isSome = true)
    (ha : ∀ i : Fin 11, w.st.act[i].isSome = true) :
    ∃ v, microFold toyNum ((List.range' n k).flatMap framePlan) w = .next v := by
  induction k generalizing n w with
  | zero => exact ⟨w, rfl⟩
  | succ k ih =>
    obtain ⟨v, h1, h2, h3⟩ := frame_runs n w (by omega) hc ha
    obtain ⟨u, h4⟩ := ih (n + 1) v (by omega) (by rw [h2]; exact hc) (by rw [h3]; exact ha)
    exact ⟨u, by simp only [List.range'_succ, List.flatMap_cons, microFold_append, h1, andThen_next, h4]⟩

/-- What follows the snapshot of a block at the defaults runs to its end. -/
theorem rest_runs (s : State) (tmp : Temps Sample) (N : Nat) (hf : s.fs = some (lit 48000)) (ha : s.act = defaults.map some)
    (hn : N ≤ Config.NMAX) : ∃ v, microFold toyNum (coefPlan ++ (List.range N).flatMap framePlan) ⟨s, tmp⟩ = .next v := by
  obtain ⟨h2, h3, h4⟩ := default_cutoffs
  have a (i : Fin 11) : (defaults.map some)[i] = some defaults[i] := by simp
  have f : defaults[(1 : Fin 11)] = lit 250 := by simp [defaults, paramDefaults, paramDefaultRat, lit]
  rw [microFold_append]
  simp only [andThen_next, coefPlan, microFold, micro, calcShelf, calcHighPass, readFs, readAct, hf, ha, readWritten_some, a,
    show shelfFreq .mid = 1 from rfl, f, h2, h3, h4, if_true, State.setCoef, mapOut_next, List.range_eq_range']
  refine frames_run N 0 _ (by omega) (fun k => ?_) (fun i => by simp)
  have hk : k = 0 ∨ k = 1 ∨ k = 2 := by revert k; decide
  rcases hk with rfl | rfl | rfl <;> simp [shelfStage]

/-- A block at the defaults runs to its end. -/
theorem block_runs (s : State) (tmp : Temps Sample) (o : Equiv.Perm (Fin 11)) (N : Nat) (hf : s.fs = some (lit 48000)) (hp : s.p = defaults)
    (hn : N ≤ Config.NMAX) : ∃ v, microFold toyNum (procPlan o N) ⟨s, tmp⟩ = .next v := by
  rw [procPlan, List.append_assoc, microFold_append, latch_quiet, andThen_next]
  exact rest_runs _ tmp N hf (congrArg (Vector.map some) hp) hn

theorem proc_runs (s : State) (hf : s.fs = some (lit 48000)) (hp : s.p = defaults) (hl : s.len.toNat ≤ Config.NMAX)
    (hc : s.ctlIn = []) : ∃ t, execIn toyNum .proc s = .next t := by
  obtain ⟨v, h⟩ := block_runs s.countLatch Temps.blank (Config.latchOrder s.latches) s.len.toNat hf hp hl
  by_cases h0 : s.len = 0#32
  · exact ⟨s, by simp only [execIn, execProcIn, h0, if_true]⟩
  · refine ⟨v.st.setSeq .idle, ?_⟩
    simp only [execIn, execProcIn, h0, Nat.not_lt.mpr hl, readFs, hf, readWritten_some, andThen_next, if_false, runCommand_quiet _ _ hc, h]
    rfl

/-- The same with a `CTL` write pending that lands after the block. -/
theorem proc_runs_late (s : State) (hf : s.fs = some (lit 48000)) (hp : s.p = defaults) (hl : s.len = 1#32)
    (hc : s.ctlIn = [(24, write99)]) : ∃ t, execIn toyNum .proc s = .next t := by
  obtain ⟨v, h⟩ := block_runs s.countLatch Temps.blank (Config.latchOrder s.latches) 1 hf hp Config.one_le_NMAX
  have hlen : (procPlan (Config.latchOrder s.latches) 1).length = 25 := by simp [procPlan, latchPlan, coefPlan, framePlan]
  have hn : ¬ Config.NMAX < 1 := Nat.not_lt.mpr Config.one_le_NMAX
  simp only [execIn, execProcIn, hl, hn, readFs, hf, readWritten_some, andThen_next, if_false, show (1#32).toNat = 1 from rfl,
    show ¬ (1#32 = 0#32) from by decide]
  cases hpl : procPlan (Config.latchOrder s.latches) 1 with
  | nil => simp [hpl] at hlen
  | cons e plan =>
    rw [hpl] at h hlen
    exact ⟨_, runCommand_late hc h (by simp only [List.length_cons] at hlen; omega)⟩

/-- The same with a write that lands in the first gap after the snapshot, before `CLS0`. -/
theorem proc_runs_after_snapshot (s : State) (hb : s.built = true) (hf : s.fs = some (lit 48000)) (hp : s.p = defaults)
    (hl : s.len = 1#32) (hc : s.ctlIn = [(10, write99)]) : ∃ t, execIn toyNum .proc s = .next t := by
  have hn : ¬ Config.NMAX < 1 := Nat.not_lt.mpr Config.one_le_NMAX
  have hlen : (latchPlan (Config.latchOrder s.latches)).length = 11 := by simp [latchPlan]
  have hq := latch_quiet (N := toyNum) (Config.latchOrder s.latches) ⟨s.countLatch, Temps.blank⟩
  simp only [execIn, execProcIn, hl, hn, readFs, hf, readWritten_some, andThen_next, if_false, show (1#32).toNat = 1 from rfl,
    show ¬ (1#32 = 0#32) from by decide, runCommand, procPlan, List.append_assoc]
  cases hpl : latchPlan (Config.latchOrder s.latches) with
  | nil => simp [hpl] at hlen
  | cons e plan =>
    rw [hpl] at hq hlen
    have h10 : plan.length = 10 := by simpa using hlen
    obtain ⟨q, h1⟩ := runPlan_late (w := ⟨s.countLatch, Temps.blank⟩) hc hq (by omega)
    rw [h10] at h1
    rw [runPlan_append, h1, andThen_next]
    rw [show coefPlan ++ (List.range 1).flatMap framePlan = (0, Phase.cls0) :: ([(0, .chp), (0, .cls2)] ++ (List.range 1).flatMap framePlan)
      from rfl, runRest_last hb rfl (show decodeWord write99.cw = .ok (.wrp 0#4) from rfl) (show paramIndex 0#4 = some 0 from rfl)]
    generalize hw : ({ Work.atCtl _ q _ with st := _ } : Work Sample) = w
    have hwf : w.st.fs = some (lit 48000) := by rw [← hw]; exact hf
    have hwa : w.st.act = defaults.map some := by rw [← hw]; exact congrArg (Vector.map some) hp
    obtain ⟨v, h2⟩ := rest_runs w.st w.tmp 1 hwf hwa Config.one_le_NMAX
    have h3 := runRest_quiet (N := toyNum) (coefPlan ++ (List.range 1).flatMap framePlan) w .idle w.st.seq (by rw [← hw]; rfl)
    rw [h2] at h3
    obtain ⟨u, h4, _⟩ := mapOut_eq_next.mp h3
    exact ⟨_, by rw [show w.atSeq w.st.seq = w from rfl] at h4; exact congrArg (mapOut _) h4⟩

/-! One step from the state after reset (30_encoding.md R77). -/

theorem test_step_wrp :
    step (State.reset.withFetchWord 8 0x2A) =
      .next { State.reset with p := State.reset.p.set 10 0#Config.W, pdata := 0#Config.W } := rfl

theorem test_step_enc : ∃ t, step (State.reset.withFetchWord 8 0x70) = .next t ∧ t.rsa.isSome = true ∧ t.rsb.isSome = true ∧ t.audIn = [] :=
  ⟨_, rfl, rfl, rfl, rfl⟩

/-- `DEC` before any `LATCH` is refused (95_test_vectors.md section 2.4); so is a reserved word. -/
theorem test_step_refusals :
    step (State.reset.withFetchWord 8 0x80) = .refused .v3Unwritten ∧ step (State.reset.withFetchWord 8 0x51) = .refused .v5Reserved :=
  ⟨rfl, rfl⟩

/-! For every statement with hypotheses, a state and operands that meet them all. -/

theorem witness_EncodedStreamDecodes : ∀ i ∈ [Instr.rst, .wrp 10#4, .cls 2#4, .bq 2#4, .proc], WellFormed i = true := by decide

theorem witness_DecodedWordIsItsEncoding : decodeWord 0x2A#8 = .ok (.wrp 10#4) := rfl

theorem witness_SrateSetsTheRate :
    (toyNum.lt (toyNum.lit 0) rated.opa = true ∧ rated.opa = toyNum.lit 48000) ∧
    toyNum.lt (toyNum.lit 0) ({ rated with opa := lit 0 } : State).opa = false ∧
    toyNum.lt (toyNum.lit 0) ({ rated with opa := lit (-44100) } : State).opa = false := by
  obtain ⟨h1, h2, h3, _⟩ := toyNum_facts
  exact ⟨⟨h1, rfl⟩, h2, h3⟩

theorem witness_WrpStoresOneParameter : 10 < (11#4).toNat ∧ 10 < (15#4).toNat := by decide

theorem witness_LatchCopiesTheParameters : Quiet rated := rfl

/-- One `CTL` write lands in the first gap, one in the last. -/
theorem witness_LatchTearsNothing :
    ∃ t, exec .latch { rated with ctlIn := [(0, write99), (9, ⟨0x2A#8, lit 6⟩)] } = .next t := ⟨_, rfl⟩

theorem witness_LatchSeesWriteByPosition (g : Nat) :
    ({ rated with ctlIn := [(g, write99)] } : State).built = true ∧ ({ rated with ctlIn := [(g, write99)] } : State).ctlIn = [(g, write99)] ∧
    decodeWord write99.cw = .ok (.wrp 0#4) ∧ paramIndex 0#4 = some 0 := ⟨rfl, rfl, rfl, rfl⟩

theorem witness_LatchAlwaysCompletes :
    ({ rated with ctlIn := [(3, write99)] } : State).built = true ∧
    ∀ e ∈ ({ rated with ctlIn := [(3, write99)] } : State).ctlIn, LegalWrite e.2 :=
  ⟨rfl, by rintro e he; cases List.mem_singleton.mp he; exact ⟨0#4, rfl⟩⟩

theorem latched_act (i : Fin 11) : latched.act[i] = some defaults[i] := by simp [latched]

/-- What a legal cutoff says of the order. -/
theorem cutoff_facts {f fs : Sample} (h : cutoffOk toyNum f fs = true) :
    toyNum.lt (toyNum.lit 0) f = true ∧ toyNum.lt f (toyNum.div fs (toyNum.lit 2)) = true ∧
    toyNum.lt (toyNum.lit 0) fs = true := by
  simpa [cutoffOk, and_assoc] using h

theorem witness_ClsWritesShelfCoefficients (k : Fin 3) (hk : k = 0 ∨ k = 2) :
    ∃ (gi fi : Fin 11) (fs G f : Sample),
      ((k = 0 ∧ gi = 0 ∧ fi = 1) ∨ (k = 2 ∧ gi = 2 ∧ fi = (if Config.sideFreqAssign = .lowerToHp then 4 else 3))) ∧
      latched.fs = some fs ∧ latched.act[gi] = some G ∧ latched.act[fi] = some f ∧
      toyNum.lt (toyNum.lit 0) f = true ∧ toyNum.lt f (toyNum.div fs (toyNum.lit 2)) = true ∧
      toyNum.lt (toyNum.lit 0) fs = true := by
  obtain ⟨h1, h2, h3⟩ := default_cutoffs
  have f1 : defaults[(1 : Fin 11)] = lit 250 := by simp [defaults, paramDefaults, paramDefaultRat, lit]
  rcases hk with rfl | rfl
  · exact ⟨0, 1, lit 48000, defaults[0], lit 250, .inl ⟨rfl, rfl, rfl⟩, rfl, latched_act 0, f1 ▸ latched_act 1, cutoff_facts h1⟩
  · refine ⟨2, shelfFreq .side, lit 48000, defaults[2], _, .inr ⟨rfl, rfl, ?_⟩, rfl, latched_act 2, latched_act _, cutoff_facts h3⟩
    unfold shelfFreq
    cases Config.sideFreqAssign <;> rfl

theorem witness_ChpWritesHighPassCoefficients :
    ∃ (fi : Fin 11) (fs f : Sample), fi = (if Config.sideFreqAssign = .lowerToHp then 3 else 4) ∧
      latched.fs = some fs ∧ latched.act[fi] = some f ∧
      toyNum.lt (toyNum.lit 0) f = true ∧ toyNum.lt f (toyNum.div fs (toyNum.lit 2)) = true ∧
      toyNum.lt (toyNum.lit 0) fs = true := by
  obtain ⟨h1, h2, h3⟩ := default_cutoffs
  refine ⟨highPassFreq, lit 48000, _, ?_, rfl, latched_act _, cutoff_facts h2⟩
  unfold highPassFreq
  cases Config.sideFreqAssign <;> rfl

/-- A snapshot whose cutoffs are half the sample rate (95_test_vectors.md section 2.2). -/
def atHalfRate : State := { rated with act := Vector.replicate 11 (some (lit 24000)), p := Vector.replicate 11 (lit 24000) }

theorem half_rate_refused : cutoffOk toyNum (lit 24000) (lit 48000) = false := by
  simp [cutoffOk, lit, toyNum_facts]

theorem witness_CalculatorsRefuse (k : Shelf) :
    State.reset.fs = none ∧ rated.act[shelfGain k] = none ∧ rated.act[shelfFreq k] = none ∧ rated.act[highPassFreq] = none ∧
    atHalfRate.fs = some (lit 48000) ∧ atHalfRate.act[shelfGain k] = some (lit 24000) ∧ atHalfRate.act[shelfFreq k] = some (lit 24000) ∧
    atHalfRate.act[highPassFreq] = some (lit 24000) ∧ cutoffOk toyNum (lit 24000) (lit 48000) = false ∧
    1#4 ≠ 0#4 ∧ 1#4 ≠ 2#4 ∧ 15#4 ≠ 0#4 ∧ 15#4 ≠ 2#4 := by
  refine ⟨rfl, ?_, ?_, ?_, rfl, ?_, ?_, ?_, half_rate_refused, by decide, by decide, by decide, by decide⟩ <;>
    simp [rated, atHalfRate]

theorem running_coef (k : Fin 3) : running.coef[k] = some someCoef := by simp [running]

theorem witness_BqRunsTheRecurrence (k : Fin 3) :
    running.coef[k] = some someCoef ∧ latched.coef[k] = none ∧ 2 < (3#4).toNat ∧ 2 < (15#4).toNat := by
  refine ⟨running_coef k, ?_, by decide, by decide⟩
  simp [latched, rated]

/-- No call, an empty call, and calls of two lengths. -/
theorem witness_StageRunSplitsAnywhere (k : Fin 3) :
    running.coef[k] = some someCoef ∧ ([] : List (List Sample)).flatten = [] ∧
    [[lit 1], [], [lit 0, lit 0]].flatten = [lit 1, lit 0, lit 0] := ⟨running_coef k, rfl, rfl⟩

theorem witness_BqIgnoresStoredA0 : ∃ t, running.coef[(2 : Fin 3)] = some someCoef ∧
    exec (.bq (BitVec.ofNat 4 (2 : Fin 3).val)) running = .next t := ⟨_, rfl, rfl⟩

theorem witness_DecJoinsTheFrame : latched.act[10] = some defaults[10] ∧ rated.act[10] = none :=
  ⟨latched_act 10, rfl⟩

theorem witness_SatShapesTheSample :
    (latched.act[5] = some defaults[5] ∧ latched.act[6] = some defaults[6] ∧ latched.act[7] = some defaults[7] ∧
      latched.act[8] = some defaults[8] ∧ latched.act[9] = some defaults[9]) ∧
    rated.act[(5 : Fin 11)] = none ∧ rated.act[(9 : Fin 11)] = none :=
  ⟨⟨latched_act 5, latched_act 6, latched_act 7, latched_act 8, latched_act 9⟩, rfl, rfl⟩

theorem witness_ProcEmptyBlockIsNoOp : State.reset.len = 0#32 := rfl

theorem witness_ProcRefusals :
    (({ rated with fs := none } : State).len ≠ 0#32 ∧ ({ rated with fs := none } : State).len.toNat ≤ Config.NMAX) ∧
    atHalfRate.len ≠ 0#32 ∧ atHalfRate.len.toNat ≤ Config.NMAX ∧ atHalfRate.fs = some (lit 48000) ∧ Quiet atHalfRate ∧
    blockCutoffsOk toyNum atHalfRate.p (lit 48000) = false := by
  refine ⟨⟨by decide, rated_fits⟩, by decide, rated_fits, rfl, rfl, ?_⟩
  have h : atHalfRate.p[1] = lit 24000 := by simp [atHalfRate]
  simp only [blockCutoffsOk, h, half_rate_refused, Bool.false_and]

theorem witness_ProcCompletesAsTheChain :
    rated.len ≠ 0#32 ∧ rated.len.toNat ≤ Config.NMAX ∧ rated.fs = some (lit 48000) ∧ Quiet rated ∧
    blockCutoffsOk toyNum rated.p (lit 48000) = true :=
  ⟨by decide, rated_fits, rfl, rfl, default_block⟩

theorem witness_ProcRunsOnItsSnapshot :
    (∃ t, execIn toyNum .proc rated = .next t ∧ rated.len ≠ 0#32) ∧
    ∃ t, execIn toyNum .proc { rated with ctlIn := [(24, write99)] } = .next t := by
  obtain ⟨t, h⟩ := proc_runs rated rfl rfl rated_fits rfl
  exact ⟨⟨t, h, by decide⟩, proc_runs_late _ rfl rfl rfl rfl⟩

theorem witness_ProcTouchesOnlyItsFrames :
    ∃ t, execIn toyNum .proc rated = .next t ∧ rated.seq = .idle ∧
      ∀ c n : Nat, c < 2 → n < rated.len.toNat → 2 * Config.NMAX ≠ bufAddr c n := by
  obtain ⟨t, h⟩ := proc_runs rated rfl rfl rated_fits rfl
  refine ⟨t, h, rfl, fun c n hc hn => ?_⟩
  have hn1 : n < 1 := hn
  have := bufAddr_lt hc (Nat.lt_of_lt_of_le hn1 Config.one_le_NMAX)
  omega

/-- `LATCH` with a write that waits for exactly its eleven micro-steps. -/
theorem witness_MicroStepsAreCounted :
    ∃ t, step { rated with audIn := [cmd 0x30#8 0#32], ctlIn := [(11, write99)] } = .next t ∧ microSteps .latch 0#32 ≤ 11 ∧
      decodeWord 0x30#8 = .ok .latch := ⟨_, rfl, by decide, rfl⟩

/-- The write lands right after the snapshot, and after the whole block. -/
theorem witness_LateWritesChangeNothing :
    (∃ t, execIn toyNum .proc { rated with ctlIn := [(10, write99)] } = .next t ∧ 10 ≤ 10) ∧
    ∃ t, execIn toyNum .proc { rated with ctlIn := [(24, write99)] } = .next t ∧ 10 ≤ 24 := by
  obtain ⟨t, h⟩ := proc_runs_after_snapshot { rated with ctlIn := [(10, write99)] } rfl rfl rfl rfl rfl
  obtain ⟨u, g⟩ := proc_runs_late { rated with ctlIn := [(24, write99)] } rfl rfl rfl rfl
  exact ⟨⟨t, h, le_rfl⟩, u, g, by decide⟩

theorem witness_ProcEqualsItsExpansion :
    rated.built = true ∧ rated.seq = .idle ∧ Quiet rated ∧ rated.len ≠ 0#32 ∧ rated.len.toNat ≤ Config.NMAX ∧
    rated.fs = some (lit 48000) ∧ blockCutoffsOk toyNum rated.p (lit 48000) = true :=
  ⟨rfl, rfl, rfl, by decide, rated_fits, rfl, default_block⟩

/-- Both ends of the cut of a block of one frame, and the cut in the middle of a block of two when the buffer holds two. -/
theorem witness_BlockSplitsAnywhere (N j : Nat) (hj : j ≤ N) (hN : N ≤ Config.NMAX) (h2 : N ≤ 2) :
    ∃ (s s₁ s₂ whole first second : State) (fs : Sample), s.len.toNat = N ∧
      Quiet s ∧ bufWf s.buf = true ∧ s.fs = some fs ∧ j ≤ s.len.toNat ∧ s.len.toNat ≤ Config.NMAX ∧
      execIn toyNum .proc s = .next whole ∧ s₁ = { s with len := BitVec.ofNat 32 j } ∧ execIn toyNum .proc s₁ = .next first ∧
      Quiet s₂ ∧ bufWf s₂.buf = true ∧ s₂.fs = s.fs ∧ s₂.p = s.p ∧ s₂.z = first.z ∧ s₂.len = BitVec.ofNat 32 (s.len.toNat - j) ∧
      (∀ n, n < s.len.toNat - j → frameAt s₂.buf n = frameAt s.buf (j + n)) ∧ execIn toyNum .proc s₂ = .next second := by
  have e (k : Nat) (hk : k ≤ 2) : (BitVec.ofNat 32 k).toNat = k := by simp only [BitVec.toNat_ofNat]; omega
  let b : List (Nat × Sample) := if N - j = 1 then putFrame [] 0 (frameAt [] j) else []
  let s : State := { rated with len := BitVec.ofNat 32 N }
  let s₁ : State := { s with len := BitVec.ofNat 32 j }
  have h0 : bufAddr 0 0 < 2 * Config.NMAX := bufAddr_lt (by omega) Config.NMAX_pos
  have h1 : bufAddr 1 0 < 2 * Config.NMAX := bufAddr_lt (by omega) Config.NMAX_pos
  have hs : s.len.toNat = N := e N h2
  obtain ⟨whole, hw⟩ := proc_runs s rfl rfl (hs.trans_le hN) rfl
  obtain ⟨first, hf⟩ := proc_runs s₁ rfl rfl ((e j (by omega)).trans_le (by omega)) rfl
  let s₂ : State := { s with len := BitVec.ofNat 32 (N - j), z := first.z, buf := b }
  obtain ⟨second, hs2⟩ := proc_runs s₂ rfl rfl ((e (N - j) (by omega)).trans_le (by omega)) rfl
  have hb : bufWf b = true := by
    unfold b
    split
    · exact bufWf_bufWrite (bufWf_bufWrite rfl h0) h1
    · rfl
  refine ⟨s, s₁, s₂, whole, first, second, lit 48000, hs, rfl, rfl, rfl, hs ▸ hj, hs ▸ hN, hw, rfl, hf, rfl, hb, rfl, rfl, rfl, ?_, ?_, hs2⟩
  · rw [hs]
  · intro n hn
    rw [hs] at hn
    have hne : bufAddr 0 0 ≠ bufAddr 1 0 := fun h => by
      have := (bufAddr_inj Config.NMAX_pos Config.NMAX_pos (by omega) (by omega) h).1
      omega
    show frameAt b n = frameAt [] (j + n)
    unfold b
    split
    · obtain rfl : n = 0 := by omega
      simp only [frameAt, putFrame, Nat.add_zero]
      rw [bufRead_bufWrite_other hne, bufRead_bufWrite_same (lo := 0) rfl,
        bufRead_bufWrite_same (lo := 0) (bufWf_bufWrite rfl h0)]
    · obtain rfl : j = 0 := by omega
      rw [Nat.zero_add]

theorem witness_AccessTable : ∃ t, exec .enc rated = .next t := ⟨_, rfl⟩

/-- `ENC` at the head of the queue. -/
def queued : State := { rated with audIn := [cmd 0x70#8 0#32] }

theorem witness_StepRunsTheTakenCommand :
    queued.built = true ∧ queued.seq = .idle ∧ (∀ w r, queued.ctlIn ≠ (0, w) :: r) ∧
    queued.audIn = .cmd ⟨0x70#8, lit 48000, lit 0, 0#32⟩ :: [] ∧ decodeWord 0x70#8 = .ok .enc ∧ Instr.agent .enc = .aud :=
  ⟨rfl, rfl, by simp [queued, rated], rfl, rfl, rfl⟩

theorem witness_StepLandsADueWrite :
    (queued.built = true ∧ ({ queued with ctlIn := [(0, write99)] } : State).ctlIn = (0, write99) :: []) ∧
    (rated.audIn = [] ∧ ({ rated with ctlIn := [(5, write99)] } : State).ctlIn = (5, write99) :: []) ∧
    decodeWord write99.cw = .ok (.wrp 0#4) ∧ paramIndex 0#4 = some 0 := ⟨⟨rfl, rfl⟩, ⟨rfl, rfl⟩, rfl, rfl⟩

/-- A reserved word on the command port, a `WRP` there, a `LATCH` on the parameter port. -/
theorem witness_ReservedUsesAreRefused :
    rated.built = true ∧ (∀ i, decodeWord 0xB0#8 = .ok i → i.agent = .ctl) ∧ (∀ i, decodeWord 0x20#8 = .ok i → i.agent = .ctl) ∧
    (∀ i, decodeWord 0x30#8 = .ok i → i.agent = .aud) ∧ (∀ i, decodeWord 0x2B#8 = .ok i → i.agent = .aud) := by
  refine ⟨rfl, ?_, ?_, ?_, ?_⟩
  · exact fun i h => nomatch (show Except.error (DecodeError.reservedOp 0xB#4) = Except.ok i from h)
  · intro i h
    cases (show Except.ok (Instr.wrp 0#4) = (Except.ok i : Except DecodeError Instr) from h)
    rfl
  · intro i h
    cases (show Except.ok Instr.latch = (Except.ok i : Except DecodeError Instr) from h)
    rfl
  · exact fun i h => nomatch (show Except.error (DecodeError.reservedArg 0x2#4 0xB#4) = Except.ok i from h)

/-- Power-on with an unspecified sequencer position. -/
def powerOn : State := { queued with built := false, seq := .run 3 .dec }

theorem witness_PowerOnTakesOnlyRst :
    powerOn.built = false ∧ (∀ w r, powerOn.ctlIn ≠ (0, w) :: r) ∧ decodeWord 0x70#8 ≠ .ok .rst ∧ decodeWord 0x00#8 = .ok .rst := by
  refine ⟨rfl, by simp [powerOn, queued, rated], ?_, rfl⟩
  intro h
  cases (show Except.ok Instr.enc = (Except.ok Instr.rst : Except DecodeError Instr) from h)

theorem witness_PortIsBusyOrIdle :
    ({ powerOn with built := true } : State).seq ≠ .idle ∧ (∀ w r, ({ powerOn with built := true } : State).ctlIn ≠ (0, w) :: r) ∧
    powerOn.audIn = .cmd ⟨0x70#8, lit 48000, lit 0, 0#32⟩ :: [] ∧ decodeWord 0x70#8 = .ok .enc ∧ rated.audIn = [] ∧ rated.ctlIn = [] :=
  ⟨by decide, by simp [powerOn, queued, rated], rfl, rfl, rfl, rfl⟩

/-- The buffer's last word (R51, R64): channel 1, frame `NMAX - 1`. -/
theorem witness_buffer_layout : (1 : Nat) < 2 ∧ Config.NMAX - 1 < Config.NMAX ∧ 2 * Config.NMAX - 1 < 2 * Config.NMAX ∧
    bufAddr 1 (Config.NMAX - 1) = 2 * Config.NMAX - 1 ∧ bufAddr 1 0 = Config.NMAX := by
  have := Config.NMAX_pos
  unfold bufAddr
  omega

/-- The last word of the buffer, the first address beyond it (refused), and a word a `PROC` owns. -/
theorem witness_HostOwnsTheIdleBuffer :
    (rated.seq = .idle ∧ bufWf rated.buf = true ∧ (∀ w r, rated.ctlIn ≠ (0, w) :: r)) ∧
    2 * Config.NMAX - 1 < 2 * Config.NMAX ∧ 2 * Config.NMAX ≤ 2 * Config.NMAX ∧
    (({ rated with seq := .run 0 .enc } : State).seq ≠ .idle ∧ 1 < 2 ∧ 0 < Config.NMAX ∧ 0 < rated.len.toNat) := by
  have := Config.NMAX_pos
  exact ⟨⟨rfl, rfl, by simp [rated]⟩, by omega, le_rfl, by simp, by omega, by omega, by decide⟩

/-- A run that has ended with a `CTL` write still pending, and with a buffer access of the host still to come. -/
theorem witness_RunEndIsStable :
    (Ended { rated with ctlIn := [(3, write99)] } = true ∧ ∃ t, step { rated with ctlIn := [(3, write99)] } = .next t) ∧
    (Ended { rated with audIn := [.bufWrite 0 (lit 1)] } = true ∧ ∃ t, step { rated with audIn := [.bufWrite 0 (lit 1)] } = .next t) ∧
    bufWf rated.buf = true ∧ Ended queued = false := by
  have h : 0 < 2 * Config.NMAX := by have := Config.NMAX_pos; omega
  refine ⟨⟨rfl, _, rfl⟩, ⟨rfl, ?_⟩, rfl, rfl⟩
  exact ⟨_, memWrite_of_lt (s := rated) h⟩

theorem witness_StepKeepsTheInvariant : ∃ t, StepInv { queued with coef := Vector.replicate 3 none } ∧ step queued = .next t := by
  refine ⟨_, ⟨rfl, rfl, rfl, .inl fun i => ?_, fun k hk => ?_⟩, rfl⟩
  · simp [queued, rated]
  · simp at hk

/-- The machine in the reference numerics `NUM_R` (00_scope.md R8) over the reals: 45_chain_commands.md R152's worked example, `SRATE 48000`,
and 43_midside.md R131 on the frame (1, -1) of 95_test_vectors.md section 1.1. -/
theorem test_numR_machine (s : State ℝ) :
    (machineIn Numerics.real).State = State ℝ ∧
    execIn Numerics.real .srate { s with opa := 48000 } = .next { s with opa := 48000, fs := some 48000 } ∧
    execIn Numerics.real .enc { s with opa := 1, opb := -1 } = .next { s with opa := 1, opb := -1, rsa := some 0, rsb := some 1 } := by
  refine ⟨rfl, ?_, ?_⟩
  · simp [execIn, execSrateIn, rateOk, Numerics.real, State.setFs]
  · simp [execIn, execEncIn, midSideEncode, Numerics.real, State.deliver]

/-- 250 Hz at 48000 Hz, the document's scenario. -/
theorem witness_real_cutoff : (0 : ℝ) < 48000 ∧ (0 : ℝ) < 250 ∧ (250 : ℝ) < 48000 / 2 := by norm_num

/-- The saturator at the editor's two limits. -/
theorem witness_SaturatorOutputIsBounded : (0 : ℝ) ≤ 100 ∧ (100 : ℝ) ≤ 100 ∧ (0 : ℝ) ≤ 0 ∧ (0 : ℝ) ≤ 100 := by norm_num

theorem witness_EndToEndFirstFrame (q : ChainParams ℝ) :
    ({ q with mid := shelfCoef Numerics.real 0 250 48000 } : ChainParams ℝ).mid = shelfCoef Numerics.real 0 250 48000 := rfl

theorem witness_BufferFormIsCanonical :
    bufWf ([] : List (Nat × Sample)) = true ∧ bufWf (bufWrite [] 0 (Config.bufPowerOn 0 + 1#Config.W)) = true := by
  have := Config.NMAX_pos
  exact ⟨rfl, bufWf_bufWrite rfl (by omega)⟩

/-- The sums that 70_reset_and_hazards.md R206 states for one frame. -/
theorem test_work_of_a_frame : workFrame =
    { mul := 33, div := 3, addSub := 18, sin := 2, tanh := 2, pow10 := 1, bufReads := 2, bufWrites := 2 } := by decide

end Sys2Proof.Tests
end

section
/-! PROOFS. Why each command is refused, when it is (00_scope.md R11; 60_exceptions.md R172): one lemma per command, and for `LATCH` and
`PROC` an induction over their micro-steps, each gap and each micro-step having its own reasons. -/

namespace Sys2Proof.Machine

variable {F : Type} {N : Numerics F}

/-- R11: there is no third outcome, since `Fault` has no value. -/
theorem next_or_refused {α : Type} (o : Out α) : (∃ a, o = .next a) ∨ ∃ r, o = .refused r := by
  cases o with
  | next a => exact .inl ⟨a, rfl⟩
  | fault e => cases e
  | refused r => exact .inr ⟨r, rfl⟩

theorem mapOut_eq_refused {α β : Type} {f : α → β} {o : Out α} {r : Refusal} : mapOut f o = .refused r ↔ o = .refused r := by
  cases o <;> simp

/-! An index without a register is one that no legal word carries (30_encoding.md R75). -/

theorem paramIndex_eq_none {a : BitVec 4} : paramIndex a = none ↔ paramArgOk a = false := by
  simp only [paramIndex, paramArgOk, dite_eq_right_iff, reduceCtorEq, imp_false, decide_eq_false_iff_not]
  omega

theorem stageIndex_eq_none {a : BitVec 4} : stageIndex a = none ↔ stageArgOk a = false := by
  simp only [stageIndex, stageArgOk, dite_eq_right_iff, reduceCtorEq, imp_false, decide_eq_false_iff_not]
  omega

theorem shelfIndex_eq_none {a : BitVec 4} : shelfIndex a = none ↔ shelfArgOk a = false := by
  by_cases h0 : a.toNat = 0 <;> by_cases h2 : a.toNat = 2 <;> simp [shelfIndex, shelfArgOk, h0, h2]

/-! The commands of one micro-step. -/

theorem execSrateIn_refused {s : State F} {r : Refusal} (h : execSrateIn N s = .refused r) : r = .v2SampleRate := by
  unfold execSrateIn at h
  split at h <;> cases h
  rfl

theorem execWrpIn_refused {a : BitVec 4} {s : State F} {r : Refusal} (h : execWrpIn a s = .refused r) :
    r = .v5Reserved ∧ WellFormed (.wrp a) = false := by
  unfold execWrpIn at h
  split at h <;> cases h
  exact ⟨rfl, paramIndex_eq_none.mp ‹_›⟩

theorem execClsIn_refused {a : BitVec 4} {s : State F} {r : Refusal} (h : execClsIn N a s = .refused r) :
    r = .v3Unwritten ∨ r = .v1Cutoff ∨ (r = .v5Reserved ∧ WellFormed (.cls a) = false) := by
  unfold execClsIn at h
  split at h
  · exact (calcShelf_refused h).imp_right .inl
  · cases h
    exact .inr (.inr ⟨rfl, shelfIndex_eq_none.mp ‹_›⟩)

theorem execBqIn_refused {a : BitVec 4} {s : State F} {r : Refusal} (h : execBqIn N a s = .refused r) :
    r = .v3Unwritten ∨ (r = .v5Reserved ∧ WellFormed (.bq a) = false) := by
  unfold execBqIn at h
  split at h
  · rcases andThen_eq_refused.mp h with h | ⟨_, _, h⟩
    · exact .inl (runStage_refused h)
    · cases h
  · cases h
    exact .inr ⟨rfl, stageIndex_eq_none.mp ‹_›⟩

theorem execDecIn_refused {s : State F} {r : Refusal} (h : execDecIn N s = .refused r) : r = .v3Unwritten := by
  rcases andThen_eq_refused.mp h with h | ⟨_, _, h⟩
  · exact decodeFrame_refused h
  · cases h

theorem execSatIn_refused {s : State F} {r : Refusal} (h : execSatIn N s = .refused r) : r = .v3Unwritten := by
  rcases andThen_eq_refused.mp h with h | ⟨_, _, h⟩
  · exact saturateSample_refused h
  · cases h

/-! The commands of several micro-steps. A refusal comes out of a gap, for a pending `CTL` transaction, or out of a micro-step. -/

/-- `t` is constructed when `s` is, and every transaction pending in `t` was pending in `s`: what gaps and micro-steps keep. -/
structure KeepsPending (s t : State F) : Prop where
  built : t.built = s.built
  pending : ∀ x ∈ t.ctlIn, ∃ y ∈ s.ctlIn, x.2 = y.2

theorem gap_keepsPending {s t : State F} {q : Seq} (h : between (s.setSeq q) = .next t) : KeepsPending s t :=
  ⟨(between_same h).built, between_pending (s := s.setSeq q) h⟩

/-- A pending `CTL` transaction is the violation `r` itself (60_exceptions.md R172, V5 and V7; log 12). -/
def PendingViolation (s : State F) (r : Refusal) : Prop :=
  (r = .v5Reserved ∧ ∃ e ∈ s.ctlIn, ¬ LegalWrite e.2) ∨ (r = .v7BeforeReset ∧ s.ctlIn ≠ [] ∧ s.built = false)

theorem PendingViolation.of_keepsPending {s t : State F} {r : Refusal} (hk : KeepsPending s t) (h : PendingViolation t r) :
    PendingViolation s r := by
  rcases h with ⟨hr, e, he, hlegal⟩ | ⟨hr, hne, hb⟩
  · obtain ⟨y, hy, hey⟩ := hk.pending e he
    exact .inl ⟨hr, y, hy, hey ▸ hlegal⟩
  · obtain ⟨e, he⟩ := List.exists_mem_of_ne_nil _ hne
    obtain ⟨y, hy, _⟩ := hk.pending e he
    exact .inr ⟨hr, List.ne_nil_of_mem hy, hk.built ▸ hb⟩

theorem gap_refused {s : State F} {q : Seq} {r : Refusal} (h : between (s.setSeq q) = .refused r) : PendingViolation s r := by
  have hne : s.ctlIn ≠ [] := fun hq => by simp [between_quiet (s := s.setSeq q) hq] at h
  exact (between_refused h).symm.imp id fun ⟨hr, hb⟩ => ⟨hr, hne, hb⟩

variable [Inhabited F] [DecidableEq F]

theorem micro_keepsPending {n : Nat} {ph : Phase} {w v : Work F} (h : micro N n ph w = .next v) : KeepsPending w.st v.st := by
  obtain ⟨_, _, _, hctl⟩ := micro_ctl h
  exact ⟨(micro_outside h).built, fun x hx => ⟨x, hctl ▸ hx, rfl⟩⟩

/-- A micro-step of a frame inside the buffer is refused for V1 or V3 only, and `LAT(p)` never is: no address it forms is out of range
(20_memory.md R56). -/
theorem micro_refused {n : Nat} {ph : Phase} {w : Work F} {r : Refusal} (hn : n < Config.NMAX) (h : micro N n ph w = .refused r) :
    (r = .v3Unwritten ∨ r = .v1Cutoff) ∧ ∀ p, ph ≠ .lat p := by
  have hread (c : Nat) (hc : c < 2) := memRead_of_lt (s := w.st) (bufAddr_lt hc hn)
  have hwrite (c : Nat) (hc : c < 2) (v : F) := memWrite_of_lt (s := w.st) (v := v) (bufAddr_lt hc hn)
  cases ph <;> simp only [micro, mapOut_eq_refused, reduceCtorEq] at h <;> refine ⟨?_, fun _ => nofun⟩
  case cls0 => exact calcShelf_refused h
  case chp => exact calcHighPass_refused h
  case cls2 => exact calcShelf_refused h
  case ld0 => simp [hread 0] at h
  case ld1 => simp [hread 1] at h
  case bq0 => exact .inl (runStage_refused h)
  case bq1 => exact .inl (runStage_refused h)
  case bq2 => exact .inl (runStage_refused h)
  case dec => exact .inl (decodeFrame_refused h)
  case sat0 => exact .inl (saturateSample_refused h)
  case sat1 => exact .inl (saturateSample_refused h)
  case st0 => simp [hwrite 0] at h
  case st1 => simp [hwrite 1] at h

/-- A run of micro-steps is refused by a pending transaction or by one of its micro-steps. -/
theorem runRest_refused {plan : List (Nat × Phase)} {w : Work F} {r : Refusal} (h : runRest N plan w = .refused r) :
    PendingViolation w.st r ∨ ∃ e ∈ plan, ∃ v, micro N e.1 e.2 v = .refused r := by
  induction plan generalizing w with
  | nil => cases h
  | cons e rest ih =>
    rcases andThen_eq_refused.mp h with hgap | ⟨s, hgap, h⟩
    · exact .inl (gap_refused hgap)
    rcases andThen_eq_refused.mp h with hmicro | ⟨v, hmicro, hrest⟩
    · exact .inr ⟨e, List.mem_cons_self, _, hmicro⟩
    rcases ih hrest with hv | ⟨e', he', hv⟩
    · exact .inl ((hv.of_keepsPending (micro_keepsPending hmicro)).of_keepsPending (gap_keepsPending hgap))
    · exact .inr ⟨e', List.mem_cons_of_mem _ he', hv⟩

theorem runPlan_refused {plan : List (Nat × Phase)} {w : Work F} {r : Refusal} (h : runPlan N plan w = .refused r) :
    PendingViolation w.st r ∨ ∃ e ∈ plan, ∃ v, micro N e.1 e.2 v = .refused r := by
  cases plan with
  | nil => cases h
  | cons e rest =>
    rcases andThen_eq_refused.mp h with hmicro | ⟨v, hmicro, hrest⟩
    · exact .inr ⟨e, List.mem_cons_self, _, hmicro⟩
    rcases runRest_refused hrest with hv | ⟨e', he', hv⟩
    · exact .inl (hv.of_keepsPending (micro_keepsPending hmicro))
    · exact .inr ⟨e', List.mem_cons_of_mem _ he', hv⟩

theorem runCommand_refused {plan : List (Nat × Phase)} {s : State F} {r : Refusal} (h : runCommand N plan s = .refused r) :
    PendingViolation s r ∨ ∃ e ∈ plan, ∃ v, micro N e.1 e.2 v = .refused r :=
  runPlan_refused (mapOut_eq_refused.mp h)

/-- The frames that the micro-steps of a `PROC` belong to: those of its block, and 0 for the snapshot and the coefficients (R160). -/
theorem frame_of_mem_procPlan {o : Equiv.Perm (Fin 11)} {len : Nat} {e : Nat × Phase} (he : e ∈ procPlan o len) : e.1 = 0 ∨ e.1 < len := by
  simp only [procPlan, List.mem_append, List.mem_flatMap, List.mem_range] at he
  rcases he with (he | he) | ⟨n, hn, he⟩
  · obtain ⟨j, _, rfl⟩ := List.mem_map.mp he
    exact .inl rfl
  · simp only [coefPlan, List.mem_cons, List.not_mem_nil, or_false] at he
    rcases he with rfl | rfl | rfl <;> exact .inl rfl
  · have hfst : ∀ x ∈ framePlan n, x.1 = n := by simp [framePlan]
    exact .inr (hfst e he ▸ hn)

/-- `LATCH` has no reason of its own to be refused (R154). -/
theorem execLatchIn_refused {s : State F} {r : Refusal} (h : execLatchIn N s = .refused r) : PendingViolation s r := by
  rcases runCommand_refused h with hv | ⟨e, he, v, hm⟩
  · exact hv
  · obtain ⟨j, _, rfl⟩ := List.mem_map.mp he
    exact absurd rfl ((micro_refused Config.NMAX_pos hm).2 _)

/-- `PROC` is refused for V4, V3, V1 (R158, R159) or a pending transaction; a block that fits forms no address outside the buffer. -/
theorem execProcIn_refused {s : State F} {r : Refusal} (h : execProcIn N s = .refused r) :
    r = .v4BlockLength ∨ (r = .v3Unwritten ∨ r = .v1Cutoff) ∨ PendingViolation s r := by
  unfold execProcIn at h
  split at h
  · cases h
  split at h
  · cases h
    exact .inl rfl
  rcases andThen_eq_refused.mp h with hfs | ⟨_, _, h⟩
  · exact .inr (.inl (.inl (readWritten_eq_refused.mp hfs).2))
  rcases runCommand_refused h with hv | ⟨e, he, v, hm⟩
  · exact .inr (.inr hv)
  · have hn : e.1 < Config.NMAX := by
      have := frame_of_mem_procPlan he
      have := Config.NMAX_pos
      omega
    exact .inr (.inl (micro_refused hn hm).1)

end Sys2Proof.Machine

namespace Sys2Proof

open Machine

/-- Settles O36: the two outcomes by `next_or_refused`, the reasons command by command. -/
theorem commandsCompleteOrAreRefused : Obligations.CommandsCompleteOrAreRefused := by
  unfold Obligations.CommandsCompleteOrAreRefused
  intro i s
  refine (next_or_refused (exec i s)).imp_right fun ⟨r, h⟩ => ⟨r, h, ?_⟩
  rw [exec_eq_execIn] at h
  cases i with
  | rst => cases h
  | srate => simp [execSrateIn_refused h]
  | wrp a => simp [execWrpIn_refused h]
  | latch => rcases execLatchIn_refused h with ⟨rfl, hv⟩ | ⟨rfl, hv⟩ <;> simp [hv]
  | cls a => rcases execClsIn_refused h with rfl | rfl | ⟨rfl, hw⟩ <;> simp [*]
  | chp => rcases calcHighPass_refused h with rfl | rfl <;> simp
  | bq a => rcases execBqIn_refused h with rfl | ⟨rfl, hw⟩ <;> simp [*]
  | enc => cases h
  | dec => simp [execDecIn_refused h]
  | sat => simp [execSatIn_refused h]
  | proc =>
    rcases execProcIn_refused h with rfl | (rfl | rfl) | ⟨rfl, hv⟩ | ⟨rfl, hv⟩ <;> simp [*]

end Sys2Proof
end

section
/-! PROOFS. The end of a run (00_scope.md R16): what one step can do, once for every meaning of the commands, and what of it is left when
no command is. -/

namespace Sys2Proof.Machine

variable {F : Type}

/-- What a transaction that the parameter port takes leaves in `P` (20_memory.md R59, item 6). -/
theorem takeParam_param {tx : ParamTx F} {s t : State F} (h : takeParam tx s = .next t) (p : Fin 11) :
    t.p[p] = s.p[p] ∨ ∃ a, decodeWord tx.cw = .ok (.wrp a) ∧ paramIndex a = some p ∧ t.p[p] = tx.opa := by
  obtain ⟨_, a, i, hd, hi, rfl⟩ := takeParam_eq_next.mp h
  by_cases hip : i = p
  · subst hip
    exact .inr ⟨a, hd, hi, by simp⟩
  · exact .inl (by simp [Vector.getElem_set_ne, Fin.val_ne_of_ne hip])

variable [Inhabited F] [DecidableEq F]

/-- The host's write that is served changes one word of the buffer and nothing else (20_memory.md R52, R55). -/
theorem hostWrite_eq_next {a : Nat} {v : F} {s t : State F} :
    hostWrite a v s = .next t ↔ blockOwns s a = false ∧ a < 2 * Config.NMAX ∧ t = s.setBuf (bufWrite s.buf a v) := by
  unfold hostWrite
  cases blockOwns s a <;> simp [memWrite_eq_next]

omit [DecidableEq F] in
/-- The host's read that is served changes nothing but what stands on the buffer port (R57). -/
theorem hostRead_eq_next {a : Nat} {s t : State F} :
    hostRead a s = .next t ↔ blockOwns s a = false ∧ a < 2 * Config.NMAX ∧ t = s.setRdata (some (bufRead s.buf a)) := by
  unfold hostRead
  cases blockOwns s a <;> simp [andThen_eq_next, memRead_eq_next, eq_comm (a := t)]

/-- Everything one step can do when it answers: a `CTL` write lands, the audio side's or the host's next act is taken, or the block, with
nothing to do, waits. -/
theorem takeNext_cases {run : Instr → State F → Out (State F)} {s t : State F} (h : takeNext run s = .next t) :
    (∃ g tx rest, s.ctlIn = (g, tx) :: rest ∧ (g = 0 ∨ s.audIn = []) ∧ takeParam tx (s.setCtlIn rest) = .next t) ∨
    (∃ a rest, s.audIn = a :: rest ∧ (∀ w r, s.ctlIn ≠ (0, w) :: r) ∧ takeAud run a (s.setAudIn rest) = .next t) ∨
    (s.ctlIn = [] ∧ s.audIn = [] ∧ t = s) := by
  unfold takeNext at h
  split at h
  next tx rest hc => exact .inl ⟨0, tx, rest, hc, .inl rfl, h⟩
  next a rest ha hdue => exact .inr (.inl ⟨a, rest, ha, hdue, h⟩)
  next g tx rest hc ha => exact .inl ⟨g + 1, tx, rest, hc, .inr ha, h⟩
  next hc ha =>
    cases h
    exact .inr (.inr ⟨hc, ha, rfl⟩)

end Sys2Proof.Machine

namespace Sys2Proof

open Machine

theorem ended_iff {F : Type} {s : State F} : Ended s = true ↔ (∀ a ∈ s.audIn, isCommand a = false) ∧ s.seq = .idle := by
  simp [Ended]

/-- Settles O60, by the kinds of step: with no command left, a `CTL` write lands, the host accesses a word, or the block waits. -/
theorem runEndIsStable : Obligations.RunEndIsStable := by
  unfold Obligations.RunEndIsStable
  intro s t he hwf h
  obtain ⟨hcmd, hseq⟩ := ended_iff.mp he
  rcases takeNext_cases h with ⟨g, tx, rest, hc, _, hparam⟩ | ⟨a, rest, ha, _, haud⟩ | ⟨_, _, rfl⟩
  · have hs := (SameButParams.setCtlIn s rest).trans (takeParam_same hparam)
    refine ⟨ended_iff.mpr ⟨hs.audIn ▸ hcmd, hs.seq.trans hseq⟩, hs.fs, hs.act, hs.coef, hs.z, hs.seq.trans hseq, hs.rsa, hs.rsb,
      fun p => ?_, fun a => .inl (by rw [hs.buf])⟩
    exact (takeParam_param hparam p).imp_right fun ⟨a, hd, hi, hv⟩ => ⟨(g, tx), hc ▸ List.mem_cons_self, a, hd, hi, hv⟩
  · have hrest : ∀ b ∈ rest, isCommand b = false := fun b hb => hcmd b (ha ▸ List.mem_cons_of_mem _ hb)
    cases a with
    | cmd tx => exact absurd (hcmd _ (ha ▸ List.mem_cons_self)) (by simp [isCommand])
    | bufWrite c v =>
      obtain ⟨_, _, rfl⟩ := hostWrite_eq_next.mp haud
      refine ⟨ended_iff.mpr ⟨hrest, hseq⟩, rfl, rfl, rfl, rfl, hseq, rfl, rfl, fun p => .inl rfl, fun a => ?_⟩
      by_cases hac : a = c
      · subst hac
        exact .inr ⟨v, by simp [ha], bufRead_bufWrite_same (lo := 0) hwf⟩
      · exact .inl (bufRead_bufWrite_other hac)
    | bufRead c =>
      obtain ⟨_, _, rfl⟩ := hostRead_eq_next.mp haud
      exact ⟨ended_iff.mpr ⟨hrest, hseq⟩, rfl, rfl, rfl, rfl, hseq, rfl, rfl, fun p => .inl rfl, fun a => .inl rfl⟩
  · exact ⟨he, rfl, rfl, rfl, rfl, hseq, rfl, rfl, fun p => .inl rfl, fun a => .inl rfl⟩

end Sys2Proof
end

section
/-! PROOFS. The elements of the state (10_state.md): which of them each command writes (R35), and what every step keeps of them. The commands
of one micro-step are inverted once each; for `LATCH` and `PROC` the induction over their micro-steps is packaged once for whole commands. -/

namespace Sys2Proof

/-- What a part of the pending writes may write, all of them may. -/
theorem WritesTo.of_pending {F : Type} {q q' : List (Nat × Machine.ParamTx F)} {p : Fin 11} {v : F} (hq : ∀ x ∈ q, ∃ y ∈ q', x.2 = y.2)
    (h : WritesTo q p v) : WritesTo q' p v := by
  obtain ⟨x, hx, a, hd, hp, hv⟩ := h
  obtain ⟨y, hy, hxy⟩ := hq x hx
  exact ⟨y, hy, a, hxy ▸ hd, hp, hxy ▸ hv⟩

end Sys2Proof

namespace Sys2Proof.Machine

variable {F : Type} {N : Numerics F}

/-! What a command of one micro-step leaves when it answers. -/

theorem execSrateIn_eq_next {s t : State F} : execSrateIn N s = .next t ↔ rateOk N s.opa = true ∧ t = s.setFs (some s.opa) := by
  unfold execSrateIn
  split <;> simp [*, eq_comm]

theorem execClsIn_eq_next {a : BitVec 4} {s t : State F} :
    execClsIn N a s = .next t ↔ ∃ k, shelfIndex a = some k ∧ calcShelf N k s = .next t := by
  unfold execClsIn
  split <;> simp [*]

theorem execBqIn_eq_next {a : BitVec 4} {s t : State F} :
    execBqIn N a s = .next t ↔ ∃ k c, stageIndex a = some k ∧ s.coef[k] = some c ∧
      t = (s.setZ k (biquadStep N c s.z[k] s.opa).2).deliver (some (biquadStep N c s.z[k] s.opa).1) none := by
  unfold execBqIn
  split
  next k hk =>
    simp only [andThen_eq_next, Prod.exists, runStage_eq_next, Host.Outcome.next.injEq, hk, Option.some.injEq]
    constructor
    · rintro ⟨_, _, ⟨c, hc, rfl, rfl⟩, rfl⟩
      exact ⟨k, c, rfl, hc, rfl⟩
    · rintro ⟨_, c, rfl, hc, rfl⟩
      exact ⟨_, _, ⟨c, hc, rfl, rfl⟩, rfl⟩
  next hk => simp [hk]

theorem execDecIn_eq_next {s t : State F} :
    execDecIn N s = .next t ↔ ∃ dB, s.act[10] = some dB ∧
      t = s.deliver (some (midSideDecode N dB s.opa s.opb).1) (some (midSideDecode N dB s.opa s.opb).2) := by
  simp only [execDecIn, andThen_eq_next, decodeFrame_eq_next, Host.Outcome.next.injEq]
  constructor
  · rintro ⟨_, ⟨dB, h, rfl⟩, rfl⟩
    exact ⟨dB, h, rfl⟩
  · rintro ⟨dB, h, rfl⟩
    exact ⟨_, ⟨dB, h, rfl⟩, rfl⟩

theorem execSatIn_eq_next {s t : State F} :
    execSatIn N s = .next t ↔ ∃ q, readSatParams s = .next q ∧ t = s.deliver (some (saturate N q s.opa)) none := by
  simp only [execSatIn, andThen_eq_next, saturateSample_eq_next, Host.Outcome.next.injEq]
  constructor
  · rintro ⟨_, ⟨q, h, rfl⟩, rfl⟩
    exact ⟨q, h, rfl⟩
  · rintro ⟨q, h, rfl⟩
    exact ⟨_, ⟨q, h, rfl⟩, rfl⟩

/-- After one register of a file is written, a register is as it was or has what the one written has. -/
theorem set_unchanged_or {α : Type} {n : Nat} {Q : Fin n → Prop} {i : Fin n} (v : Vector α n) (x : α) (hi : Q i) (j : Fin n) :
    (v.set i x)[j] = v[j] ∨ Q j := by
  by_cases h : i = j
  · exact .inr (h ▸ hi)
  · exact .inl (Vector.getElem_set_ne _ _ (Fin.val_ne_of_ne h))

/-- The word of `BQ k` carries the index of stage `k` (30_encoding.md R75). -/
theorem stageIndex_ofNat (k : Fin 3) : stageIndex (BitVec.ofNat 4 k.val) = some k := by
  revert k; decide

/-- The recurrence of R101 leaves the field `a0` unread (10_state.md R28). -/
theorem biquadStep_a0 (c : Coef F) (a : F) (z : ZPair F) (x : F) : biquadStep N { c with a0 := a } z x = biquadStep N c z x := rfl

/-! What the gaps of a command do to `P`: only pending `WRP`s write it (20_memory.md R59, item 6). -/

theorem landDueFrom_param {q : List (Nat × ParamTx F)} {s t : State F} (h : landDueFrom q s = .next t) (p : Fin 11) :
    t.p[p] = s.p[p] ∨ WritesTo q p t.p[p] := by
  induction q generalizing s with
  | nil =>
    cases h
    exact .inl rfl
  | cons e rest ih =>
    obtain ⟨g, tx⟩ := e
    cases g with
    | succ g =>
      cases h
      exact .inl rfl
    | zero =>
      obtain ⟨u, hu, hrest⟩ := andThen_eq_next.mp h
      rcases ih hrest with htu | hw
      · rw [htu]
        exact (takeParam_param hu p).imp_right fun ⟨a, hd, hp, hv⟩ => ⟨_, List.mem_cons_self, a, hd, hp, hv⟩
      · exact .inr (hw.of_pending fun x hx => ⟨x, List.mem_cons_of_mem _ hx, rfl⟩)

/-- `P` has changed only by transactions pending at the start, and nothing else has become pending. -/
structure ParamsFromPending (s t : State F) : Prop where
  pending : ∀ x ∈ t.ctlIn, ∃ y ∈ s.ctlIn, x.2 = y.2
  params : ∀ p : Fin 11, t.p[p] = s.p[p] ∨ WritesTo s.ctlIn p t.p[p]

theorem ParamsFromPending.of_eq {s t : State F} (hq : t.ctlIn = s.ctlIn) (hp : t.p = s.p) : ParamsFromPending s t :=
  ⟨fun x hx => ⟨x, hq ▸ hx, rfl⟩, fun p => .inl (by rw [hp])⟩

theorem ParamsFromPending.trans {s t u : State F} (h : ParamsFromPending s t) (g : ParamsFromPending t u) : ParamsFromPending s u where
  pending x hx := by
    obtain ⟨y, hy, hxy⟩ := g.pending x hx
    obtain ⟨z, hz, hyz⟩ := h.pending y hy
    exact ⟨z, hz, hxy.trans hyz⟩
  params p := by
    rcases g.params p with htu | hw
    · exact htu ▸ h.params p
    · exact .inr (hw.of_pending h.pending)

theorem between_paramsFromPending {s t : State F} (h : between s = .next t) : ParamsFromPending s t := by
  refine ⟨between_pending h, fun p => ?_⟩
  obtain ⟨u, hu, hut⟩ := andThen_eq_next.mp h
  cases hut
  exact landDueFrom_param hu p

/-! Whole commands of several micro-steps. -/

variable [Inhabited F] [DecidableEq F]

/-- The induction over the micro-steps, for a whole command: the count of snapshots and `SEQ` are set around them (10_state.md R33). -/
theorem runCommand_induct {R : State F → State F → Prop} (htrans : ∀ s t u, R s t → R t u → R s u) (hseq : ∀ s q, R s (s.setSeq q))
    (hcount : ∀ s, R s s.countLatch) (hgap : ∀ s t, between s = .next t → R s t) {plan : List (Nat × Phase)}
    (hmicro : ∀ n ph w w', (n, ph) ∈ plan → micro N n ph w = .next w' → R w.st w'.st) {s t : State F}
    (h : runCommand N plan s = .next t) : R s t := by
  obtain ⟨w, hw, rfl⟩ := runCommand_eq_next h
  have hplan := runPlan_induct (fun u => hseq u u.seq) htrans (fun u v q hb => htrans _ _ _ (hseq u q) (hgap _ _ hb)) plan hmicro _ _ hw
  exact htrans _ _ _ (hcount s) (htrans _ _ _ hplan (hseq _ _))

theorem runCommand_seq {plan : List (Nat × Phase)} {s t : State F} (h : runCommand N plan s = .next t) : t.seq = .idle := by
  obtain ⟨w, _, rfl⟩ := runCommand_eq_next h
  rfl

theorem runCommand_outside {plan : List (Nat × Phase)} {s t : State F} (h : runCommand N plan s = .next t) :
    SameOutside s.countLatch t := by
  obtain ⟨w, hw, rfl⟩ := runCommand_eq_next h
  exact (runPlan_outside hw).trans ⟨rfl, rfl, rfl, rfl, rfl, rfl, rfl, rfl, rfl, rfl⟩

theorem runCommand_paramsFromPending {plan : List (Nat × Phase)} {s t : State F} (h : runCommand N plan s = .next t) :
    ParamsFromPending s t := by
  refine runCommand_induct (R := ParamsFromPending) (fun _ _ _ => ParamsFromPending.trans) (fun _ _ => .of_eq rfl rfl) (fun _ => .of_eq rfl rfl)
    (fun _ _ => between_paramsFromPending) (fun n ph w w' _ hm => ?_) h
  obtain ⟨_, hp, _, hq⟩ := micro_ctl hm
  exact .of_eq hq hp

/-- Every word a command writes is in the buffer, so its canonical form is kept. -/
theorem runCommand_bufWf {plan : List (Nat × Phase)} {s t : State F} (h : runCommand N plan s = .next t) (hwf : bufWf s.buf = true) :
    bufWf t.buf = true := by
  refine runCommand_induct (R := fun u v => bufWf u.buf = true → bufWf v.buf = true) (fun _ _ _ hu hv => hv ∘ hu) (fun _ _ => id)
    (fun _ => id) (fun u v hb hu => (between_same hb).buf ▸ hu) (fun n ph w w' _ hm hu => ?_) h hwf
  rcases micro_cases hm with ⟨_, _, hst, _⟩ | ⟨_, _, _, hst, _⟩ | ⟨_, _, _, hst⟩ | ⟨_, _, _, _, haddr, hst, _⟩ | hst <;> rw [hst]
  case inr.inr.inr.inl => exact bufWf_bufWrite hu haddr
  all_goals exact hu

/-- A buffer word that no `ST` of the plan names reads as it did (20_memory.md R54). -/
theorem runCommand_bufRead {plan : List (Nat × Phase)} {a : Nat}
    (ha : ∀ n, ((n, .st0) ∈ plan ∨ (n, .st1) ∈ plan) → ∀ c < 2, a ≠ bufAddr c n)
    {s t : State F} (h : runCommand N plan s = .next t) : bufRead t.buf a = bufRead s.buf a := by
  refine runCommand_induct (R := fun u v => bufRead v.buf a = bufRead u.buf a) (fun _ _ _ hu hv => hv.trans hu) (fun _ _ => rfl)
    (fun _ => rfl) (fun u v hb => by rw [(between_same hb).buf]) (fun n ph w w' hmem hm => ?_) h
  rcases micro_cases hm with ⟨_, _, hst, _⟩ | ⟨_, _, _, hst, _⟩ | ⟨_, _, _, hst⟩ | ⟨c, _, hph, hc, _, hst, _⟩ | hst <;> rw [hst]
  case inr.inr.inr.inl =>
    exact bufRead_bufWrite_other (ha n (hph.imp (by rintro rfl; exact hmem) (by rintro rfl; exact hmem)) c hc)
  all_goals rfl

/-- No micro-step unwrites a register of the snapshot, and `LAT(p)` writes `ACT[p]`. -/
theorem micro_act_written {n : Nat} {ph : Phase} {w w' : Work F} (h : micro N n ph w = .next w') {p : Fin 11}
    (hp : ph = .lat p ∨ w.st.act[p].isSome = true) : w'.st.act[p].isSome = true := by
  by_cases hlat : ph = .lat p
  · subst hlat
    cases h
    simp
  · have hact := hp.resolve_left hlat
    rcases micro_cases h with ⟨q, hq, hst, _⟩ | ⟨_, _, _, hst, _⟩ | ⟨_, _, _, hst⟩ | ⟨_, _, _, _, _, hst, _⟩ | hst <;> rw [hst]
    case inl =>
      have hqp : (q : Nat) ≠ p := fun e => hlat (Fin.ext e ▸ hq)
      simpa [Vector.getElem_set_ne, hqp] using hact
    all_goals exact hact

theorem runRest_act_written {plan : List (Nat × Phase)} {w w' : Work F} (h : runRest N plan w = .next w') {p : Fin 11}
    (hp : (∃ n, (n, .lat p) ∈ plan) ∨ w.st.act[p].isSome = true) : w'.st.act[p].isSome = true := by
  induction plan generalizing w with
  | nil =>
    cases h
    simpa using hp
  | cons e rest ih =>
    obtain ⟨n, ph⟩ := e
    obtain ⟨s, hgap, h⟩ := andThen_eq_next.mp h
    obtain ⟨v, hmicro, hrest⟩ := andThen_eq_next.mp h
    have hact : s.act = w.st.act := (between_same hgap).act
    rcases hp with ⟨m, hm⟩ | hp
    · rcases List.mem_cons.mp hm with hm | hm
      · cases hm
        exact ih hrest (.inr (micro_act_written hmicro (.inl rfl)))
      · exact ih hrest (.inl ⟨m, hm⟩)
    · exact ih hrest (.inr (micro_act_written hmicro (.inr (hact ▸ hp))))

theorem runPlan_act_written {plan : List (Nat × Phase)} {w w' : Work F} (h : runPlan N plan w = .next w') {n : Nat} {p : Fin 11}
    (hp : (n, .lat p) ∈ plan) : w'.st.act[p].isSome = true := by
  cases plan with
  | nil => cases hp
  | cons e rest =>
    obtain ⟨v, hmicro, hrest⟩ := andThen_eq_next.mp h
    rcases List.mem_cons.mp hp with rfl | hp
    · exact runRest_act_written hrest (.inr (micro_act_written hmicro (.inl rfl)))
    · exact runRest_act_written hrest (.inl ⟨n, hp⟩)

/-- A command with a whole snapshot among its micro-steps leaves all of `ACT` written. -/
theorem runCommand_act_written {o : Equiv.Perm (Fin 11)} {plan : List (Nat × Phase)} {s t : State F} (ho : latchPlan o ⊆ plan)
    (h : runCommand N plan s = .next t) (p : Fin 11) : t.act[p].isSome = true := by
  obtain ⟨w, hw, rfl⟩ := runCommand_eq_next h
  have hp : (0, Phase.lat p) ∈ latchPlan o := List.mem_map.mpr ⟨o.symm p, List.mem_finRange _, by simp⟩
  exact runPlan_act_written hw (ho hp)

/-- What `LATCH` leaves of the chain: all but the snapshot. -/
structure SameChain (s t : State F) : Prop where
  coef : t.coef = s.coef
  z : t.z = s.z
  buf : t.buf = s.buf

omit [Inhabited F] [DecidableEq F] in
theorem SameChain.trans {s t u : State F} (h : SameChain s t) (g : SameChain t u) : SameChain s u :=
  ⟨g.coef.trans h.coef, g.z.trans h.z, g.buf.trans h.buf⟩

theorem execLatchIn_sameChain {s t : State F} (h : execLatchIn N s = .next t) : SameChain s t := by
  refine runCommand_induct (R := SameChain) (fun _ _ _ => SameChain.trans) (fun _ _ => ⟨rfl, rfl, rfl⟩) (fun _ => ⟨rfl, rfl, rfl⟩)
    (fun u v hb => have hs := between_same hb; ⟨hs.coef, hs.z, hs.buf⟩) (fun n ph w w' hmem hm => ?_) h
  obtain ⟨j, _, hj⟩ := List.mem_map.mp hmem
  cases hj
  cases hm
  exact ⟨rfl, rfl, rfl⟩

/-- `PROC` does nothing for an empty block, and otherwise, with a rate set and the block fitting, runs its plan (R158). -/
theorem execProcIn_eq_next {s t : State F} :
    execProcIn N s = .next t ↔ (s.len = 0#32 ∧ t = s) ∨ (s.len ≠ 0#32 ∧ s.len.toNat ≤ Config.NMAX ∧ s.fs.isSome = true ∧
      runCommand N (procPlan (Config.latchOrder s.latches) s.len.toNat) s = .next t) := by
  unfold execProcIn
  by_cases h0 : s.len = 0#32
  · simp [h0, eq_comm (a := s) (b := t)]
  by_cases hfit : Config.NMAX < s.len.toNat
  · simp [h0, hfit, Nat.not_le.mpr hfit]
  · simp [h0, hfit, Nat.not_lt.mp hfit, andThen_eq_next, readFs_eq_next, Option.isSome_iff_exists]

theorem latchPlan_subset_procPlan (o : Equiv.Perm (Fin 11)) (len : Nat) : latchPlan o ⊆ procPlan o len := by
  intro e he
  simp only [procPlan, List.mem_append]
  exact .inl (.inl he)

/-- `PROC` leaves every word alone that is not one of its frames' (20_memory.md R54). -/
theorem execProcIn_bufRead {s t : State F} (h : execProcIn N s = .next t) (a : Nat) :
    bufRead t.buf a = bufRead s.buf a ∨ ∃ c n : Nat, c < 2 ∧ n < s.len.toNat ∧ a = bufAddr c n := by
  rcases execProcIn_eq_next.mp h with ⟨_, rfl⟩ | ⟨h0, _, _, hrun⟩
  · exact .inl rfl
  have hpos : 0 < s.len.toNat := Nat.pos_of_ne_zero fun e => h0 (BitVec.eq_of_toNat_eq e)
  refine or_iff_not_imp_right.mpr fun hout => runCommand_bufRead (fun n hn c hc ha => hout ⟨c, n, hc, ?_, ha⟩) hrun
  have hframe : n = 0 ∨ n < s.len.toNat := hn.elim frame_of_mem_procPlan frame_of_mem_procPlan
  omega

end Sys2Proof.Machine

namespace Sys2Proof

open Machine

variable {F : Type} {N : Numerics F}

/-! The invariant of the step. -/

/-- Of a snapshot that is whole or unwritten, one written register says that all are. -/
theorem SnapshotWhole.written {s : State F} (h : SnapshotWhole s) {i : Fin 11} {v : F} (hi : s.act[i] = some v) (j : Fin 11) :
    s.act[j].isSome = true := by
  rcases h with hnone | hsome
  · exact absurd ((hnone i).symm.trans hi) nofun
  · exact hsome j

variable [Inhabited F] [DecidableEq F]

/-- The invariant speaks of six fields only. -/
theorem StepInv.of_same {s t : State F} (h : StepInv s) (hbuilt : t.built = s.built) (hseq : t.seq = s.seq) (hbuf : t.buf = s.buf)
    (hact : t.act = s.act) (hcoef : t.coef = s.coef) (hfs : t.fs = s.fs) : StepInv t := by
  simpa only [StepInv, SnapshotWhole, CoefAfterRate, hbuilt, hseq, hbuf, hact, hcoef, hfs] using h

/-- With a rate and a whole snapshot written, the invariant asks nothing of the coefficients. -/
theorem StepInv.of_written {s : State F} (hbuilt : s.built = true) (hseq : s.seq = .idle) (hbuf : bufWf s.buf = true)
    (hfs : s.fs.isSome = true) (hact : ∀ i : Fin 11, s.act[i].isSome = true) : StepInv s :=
  ⟨hbuilt, hseq, hbuf, .inr hact, fun _ _ => ⟨hfs, hact⟩⟩

theorem StepInv.of_sameButParams {s t : State F} (h : StepInv s) (hs : SameButParams s t) : StepInv t :=
  h.of_same hs.built hs.seq hs.buf hs.act hs.coef hs.fs

theorem StepInv.deliver {s : State F} (h : StepInv s) (a b : Option F) : StepInv (s.deliver a b) := h.of_same rfl rfl rfl rfl rfl rfl

/-- A coefficient set computed from a rate and from the snapshot may be written (70_reset_and_hazards.md R194). -/
theorem StepInv.setCoef {s : State F} (h : StepInv s) {fs v : F} {i : Fin 11} (hfs : s.fs = some fs) (hi : s.act[i] = some v) (k : Fin 3)
    (c : Option (Coef F)) : StepInv (s.setCoef k c) := by
  obtain ⟨hbuilt, hseq, hbuf, hwhole, _⟩ := h
  exact .of_written hbuilt hseq hbuf (by simp [hfs]) (hwhole.written hi)

theorem construct_stepInv {s : State F} (hbuf : bufWf s.buf = true) : StepInv (construct N s) :=
  ⟨rfl, rfl, hbuf, .inl (by simp), fun k hk => by simp at hk⟩

theorem execLatchIn_keeps_stepInv {s t : State F} (hs : StepInv s) (h : execLatchIn N s = .next t) : StepInv t := by
  obtain ⟨hbuilt, _, hbuf, _, hcoef⟩ := hs
  have hout := runCommand_outside h
  have hact := runCommand_act_written (List.Subset.refl _) h
  refine ⟨hout.built.trans hbuilt, runCommand_seq h, runCommand_bufWf h hbuf, .inr hact, fun k hk => ⟨?_, hact⟩⟩
  rw [(execLatchIn_sameChain h).coef] at hk
  exact hout.fs ▸ (hcoef k hk).1

theorem execProcIn_keeps_stepInv {s t : State F} (hs : StepInv s) (h : execProcIn N s = .next t) : StepInv t := by
  rcases execProcIn_eq_next.mp h with ⟨_, rfl⟩ | ⟨_, _, hfs, hrun⟩
  · exact hs
  · obtain ⟨hbuilt, _, hbuf, _, _⟩ := hs
    have hout := runCommand_outside hrun
    exact .of_written (hout.built.trans hbuilt) (runCommand_seq hrun) (runCommand_bufWf hrun hbuf) (hout.fs ▸ hfs)
      (runCommand_act_written (latchPlan_subset_procPlan _ _) hrun)

/-- Every command keeps the invariant. -/
theorem execIn_keeps_stepInv {i : Instr} {s t : State F} (hs : StepInv s) (h : execIn N i s = .next t) : StepInv t := by
  cases i with
  | rst =>
    cases h
    obtain ⟨_, _, hbuf, _, _⟩ := hs
    exact construct_stepInv hbuf
  | srate =>
    obtain ⟨_, rfl⟩ := execSrateIn_eq_next.mp h
    obtain ⟨hbuilt, hseq, hbuf, hwhole, hcoef⟩ := hs
    exact ⟨hbuilt, hseq, hbuf, hwhole, fun k hk => ⟨rfl, (hcoef k hk).2⟩⟩
  | wrp a =>
    obtain ⟨i, _, rfl⟩ := execWrpIn_eq_next.mp h
    exact hs.of_same rfl rfl rfl rfl rfl rfl
  | latch => exact execLatchIn_keeps_stepInv hs h
  | cls a =>
    obtain ⟨k, _, hcalc⟩ := execClsIn_eq_next.mp h
    obtain ⟨fs, G, f, hfs, hG, _, _, rfl⟩ := calcShelf_eq_next.mp hcalc
    exact hs.setCoef hfs hG _ _
  | chp =>
    obtain ⟨fs, f, hfs, hf, _, rfl⟩ := calcHighPass_eq_next.mp h
    exact hs.setCoef hfs hf _ _
  | bq a =>
    obtain ⟨k, c, _, _, rfl⟩ := execBqIn_eq_next.mp h
    exact hs.of_same rfl rfl rfl rfl rfl rfl
  | enc =>
    cases h
    exact hs.deliver _ _
  | dec =>
    obtain ⟨dB, _, rfl⟩ := execDecIn_eq_next.mp h
    exact hs.deliver _ _
  | sat =>
    obtain ⟨q, _, rfl⟩ := execSatIn_eq_next.mp h
    exact hs.deliver _ _
  | proc => exact execProcIn_keeps_stepInv hs h

/-- Every act of the audio side and of the host keeps the invariant, when every command does. -/
theorem takeAud_keeps_stepInv {run : Instr → State F → Out (State F)} (hrun : ∀ i u t, StepInv u → run i u = .next t → StepInv t)
    {a : AudInput F} {s t : State F} (hs : StepInv s)
    (h : takeAud run a s = .next t) : StepInv t := by
  cases a with
  | cmd tx =>
    obtain ⟨i, _, _, _, _, hi⟩ := takeCommand_eq_next.mp h
    exact hrun i (s.present tx) t (hs.of_same rfl rfl rfl rfl rfl rfl) hi
  | bufWrite c v =>
    obtain ⟨_, hc, rfl⟩ := hostWrite_eq_next.mp h
    obtain ⟨hbuilt, hseq, hbuf, hwhole, hcoef⟩ := hs
    exact ⟨hbuilt, hseq, bufWf_bufWrite hbuf hc, hwhole, hcoef⟩
  | bufRead c =>
    obtain ⟨_, _, rfl⟩ := hostRead_eq_next.mp h
    exact hs.of_same rfl rfl rfl rfl rfl rfl

theorem stepIn_keeps_stepInv {s t : State F} (hs : StepInv s) (h : stepIn N s = .next t) : StepInv t := by
  rcases takeNext_cases h with ⟨g, tx, rest, _, _, hparam⟩ | ⟨a, rest, _, _, haud⟩ | ⟨_, _, rfl⟩
  · exact hs.of_sameButParams ((SameButParams.setCtlIn s rest).trans (takeParam_same hparam))
  · have hpopped : StepInv (s.setAudIn rest) := hs.of_same rfl rfl rfl rfl rfl rfl
    exact takeAud_keeps_stepInv (fun _ _ _ => execIn_keeps_stepInv) hpopped haud
  · exact hs

/-- The state after reset is one that `RST` leaves: constructing it again changes nothing. -/
theorem resetIn_stepInv (N : Numerics F) : StepInv (State.resetIn N) := construct_stepInv (s := State.resetIn N) rfl

end Sys2Proof

namespace Sys2Proof

open Machine

/-- Settles O43, by the kinds of step: of the commands, the calculators write only after a rate and a snapshot, and `LATCH` and `PROC`
leave the whole snapshot written. -/
theorem stepKeepsTheInvariant : Obligations.StepKeepsTheInvariant := by
  unfold Obligations.StepKeepsTheInvariant
  intro s t hs h
  rw [step_eq_stepIn] at h
  exact stepIn_keeps_stepInv hs h

/-- Settles O44: nothing is written yet. -/
theorem resetMeetsTheInvariant : Obligations.ResetMeetsTheInvariant := resetIn_stepInv Config.num

/-- Settles O35, command by command: a command of one micro-step by what it leaves, `LATCH` and `PROC` by what their micro-steps keep. -/
theorem accessTable : Obligations.AccessTable := by
  unfold Obligations.AccessTable
  intro i s t h
  rw [exec_eq_execIn] at h
  cases i with
  | rst =>
    cases h
    simp
  | srate =>
    obtain ⟨_, rfl⟩ := execSrateIn_eq_next.mp h
    simp
  | wrp a =>
    obtain ⟨i, hi, rfl⟩ := execWrpIn_eq_next.mp h
    have hp := set_unchanged_or (Q := fun p => paramIndex a = some p) s.p s.pdata hi
    simpa using hp
  | latch =>
    have hout := runCommand_outside h
    have hchain := execLatchIn_sameChain h
    have hp := (runCommand_paramsFromPending h).params
    exact ⟨.inl hout.fs, fun p => (hp p).imp_right fun hw => .inr (.inr ⟨.inl rfl, hw⟩), .inr (.inr (.inl rfl)),
      fun k => .inl (by rw [hchain.coef]), fun k => .inl (by rw [hchain.z]), .inl hchain.buf, fun a => .inl (by rw [hchain.buf]),
      fun _ => runCommand_seq h, .inl ⟨hout.rsa, hout.rsb⟩, hout.opa, hout.opb, hout.len, hout.rdata, hout.audIn⟩
  | cls a =>
    obtain ⟨k, hk, hcalc⟩ := execClsIn_eq_next.mp h
    obtain ⟨fs, G, f, _, _, _, _, rfl⟩ := calcShelf_eq_next.mp hcalc
    have hcoef := set_unchanged_or (Q := fun j => ∃ sh, shelfIndex a = some sh ∧ j = shelfStage sh) s.coef
      (some (shelfCoef Config.num G f fs)) ⟨k, hk, rfl⟩
    simpa using hcoef
  | chp =>
    obtain ⟨fs, f, _, _, _, rfl⟩ := calcHighPass_eq_next.mp h
    have hcoef := set_unchanged_or (Q := fun j => j = 1) s.coef (some (highPassCoef Config.num f fs)) rfl
    simpa using hcoef
  | bq a =>
    obtain ⟨k, c, hk, _, rfl⟩ := execBqIn_eq_next.mp h
    have hz := set_unchanged_or (Q := fun j => stageIndex a = some j) s.z (biquadStep Config.num c s.z[k] s.opa).2 hk
    simpa using hz
  | enc =>
    cases h
    simp
  | dec =>
    obtain ⟨dB, _, rfl⟩ := execDecIn_eq_next.mp h
    simp
  | sat =>
    obtain ⟨q, _, rfl⟩ := execSatIn_eq_next.mp h
    simp
  | proc =>
    have hbuf := execProcIn_bufRead h
    rcases execProcIn_eq_next.mp h with ⟨_, rfl⟩ | ⟨_, _, _, hrun⟩
    · simp
    · have hout := runCommand_outside hrun
      have hp := (runCommand_paramsFromPending hrun).params
      exact ⟨.inl hout.fs, fun p => (hp p).imp_right fun hw => .inr (.inr ⟨.inr rfl, hw⟩), .inr (.inr (.inr rfl)),
        fun k => .inr (.inr (.inl rfl)), fun k => .inr (.inr (.inl rfl)), .inr rfl, fun a => (hbuf a).imp_right fun hw => ⟨rfl, hw⟩,
        fun _ => runCommand_seq hrun, .inl ⟨hout.rsa, hout.rsb⟩, hout.opa, hout.opb, hout.len, hout.rdata, hout.audIn⟩

/-- Settles O6, field by field. -/
theorem resetHasTheTableValues : Obligations.ResetHasTheTableValues := by
  refine ⟨fun k => ⟨by simp [zCleared], by simp⟩, fun p => by simp, ?_, rfl, rfl⟩
  simp [paramDefaults, paramDefaultRat]

/-- Settles O23, by the two values of `SIDE_FREQ_ASSIGN`. -/
theorem sideFrequenciesAreSplit : Obligations.SideFrequenciesAreSplit := by
  refine ⟨rfl, rfl, rfl, rfl, ?_⟩
  unfold highPassFreq shelfFreq
  cases Config.sideFreqAssign with
  | lowerToHp => exact .inl ⟨rfl, rfl⟩
  | lowerToShelf => exact .inr ⟨rfl, rfl⟩

/-- Settles O18: the stage reads its coefficients through the recurrence alone, which leaves `a0` unread. -/
theorem bqIgnoresStoredA0 : Obligations.BqIgnoresStoredA0 := by
  unfold Obligations.BqIgnoresStoredA0
  intro s t k c a hc h
  rw [exec_eq_execIn] at h ⊢
  obtain ⟨k', c', hk, hc', rfl⟩ := execBqIn_eq_next.mp h
  obtain rfl : k = k' := Option.some.inj ((stageIndex_ofNat k).symm.trans hk)
  obtain rfl : c = c' := Option.some.inj (hc.symm.trans hc')
  exact execBqIn_eq_next.mpr ⟨k, { c with a0 := a }, hk, by simp, by rw [biquadStep_a0]; rfl⟩

end Sys2Proof
end

section
/-! PROOFS. The sample buffer and the agents' single acts on memory (20_memory.md R50 to R58): the buffer's form is canonical, the host's
accesses, and a `CTL` write that lands between commands. -/

namespace Sys2Proof.Machine

variable {F : Type} [Inhabited F] [DecidableEq F]

/-- The first word that a canonical list holds does not read as it did at power-on. -/
theorem bufRead_head_ne_powerOn {lo a : Nat} {v : F} {rest : List (Nat × F)} (hb : bufWfFrom lo ((a, v) :: rest) = true) :
    bufRead ((a, v) :: rest) a ≠ Config.bufPowerOn a := by
  obtain ⟨_, _, hv, _⟩ := bufWfFrom_cons.mp hb
  simpa [bufRead] using hv

/-- A canonical list starts no earlier than another one that reads the same. -/
theorem head_le_of_bufRead_eq {lo a c : Nat} {v x : F} {b d : List (Nat × F)} (hb : bufWfFrom lo ((a, v) :: b) = true)
    (hd : bufWfFrom lo ((c, x) :: d) = true) (h : ∀ e, bufRead ((a, v) :: b) e = bufRead ((c, x) :: d) e) : c ≤ a := by
  by_contra hlt
  obtain ⟨_, hc, hx, hd'⟩ := bufWfFrom_cons.mp hd
  have hbelow : bufRead ((c, x) :: d) a = Config.bufPowerOn a :=
    bufRead_of_lt (bufWfFrom_cons.mpr ⟨le_rfl, hc, hx, hd'⟩) (by omega)
  exact bufRead_head_ne_powerOn hb ((h a).trans hbelow)

/-- Two canonical lists that read the same everywhere are equal: they start with the same word, and what follows it reads the same too. -/
theorem eq_of_bufRead_eq {lo : Nat} {b d : List (Nat × F)} (hb : bufWfFrom lo b = true) (hd : bufWfFrom lo d = true)
    (h : ∀ e, bufRead b e = bufRead d e) : b = d := by
  induction b generalizing lo d with
  | nil =>
    cases d with
    | nil => rfl
    | cons e d => exact absurd (h e.1).symm (bufRead_head_ne_powerOn hd)
  | cons e b ih =>
    obtain ⟨a, v⟩ := e
    cases d with
    | nil => exact absurd (h a) (bufRead_head_ne_powerOn hb)
    | cons e d =>
      obtain ⟨c, x⟩ := e
      obtain rfl : a = c := le_antisymm (head_le_of_bufRead_eq hd hb fun e => (h e).symm) (head_le_of_bufRead_eq hb hd h)
      obtain ⟨_, _, _, hb'⟩ := bufWfFrom_cons.mp hb
      obtain ⟨_, _, _, hd'⟩ := bufWfFrom_cons.mp hd
      obtain rfl : v = x := by simpa [bufRead] using h a
      have htail : ∀ e, bufRead b e = bufRead d e := fun e => by
        by_cases he : e = a
        · subst he
          rw [bufRead_of_lt hb' (Nat.lt_succ_self e), bufRead_of_lt hd' (Nat.lt_succ_self e)]
        · simpa [bufRead, he] using h e
      rw [ih hb' hd' htail]

omit [DecidableEq F] [Inhabited F] in
/-- While the block is idle it owns no word (20_memory.md R55). -/
theorem blockOwns_of_idle {s : State F} (h : s.seq = .idle) (a : Nat) : blockOwns s a = false := by
  simp [blockOwns, h]

omit [DecidableEq F] [Inhabited F] in
/-- While a command runs on a constructed block it owns the words of the frames below `LEN` (R55). -/
theorem blockOwns_of_running {s : State F} (hb : s.built = true) (hq : s.seq ≠ .idle) {c n : Nat} (hn : n < Config.NMAX)
    (hlen : n < s.len.toNat) : blockOwns s (bufAddr c n) = true := by
  have hmod : bufAddr c n % Config.NMAX = n := by
    rw [bufAddr, Nat.mul_add_mod_self_right, Nat.mod_eq_of_lt hn]
  simp [blockOwns, hb, hq, hmod, hlen]

theorem hostWrite_of_owned {a : Nat} {v : F} {s : State F} (h : blockOwns s a = true) : hostWrite a v s = .refused .v6BufferOwned := by
  simp [hostWrite, h]

omit [DecidableEq F] in
theorem hostRead_of_owned {a : Nat} {s : State F} (h : blockOwns s a = true) : hostRead a s = .refused .v6BufferOwned := by
  simp [hostRead, h]

theorem hostWrite_out_of_range {a : Nat} {v : F} {s : State F} (h : blockOwns s a = false) (ha : 2 * Config.NMAX ≤ a) :
    hostWrite a v s = .refused (.bufferRange a) := by
  simp [hostWrite, memWrite, h, Nat.not_lt.mpr ha]

omit [DecidableEq F] in
theorem hostRead_out_of_range {a : Nat} {s : State F} (h : blockOwns s a = false) (ha : 2 * Config.NMAX ≤ a) :
    hostRead a s = .refused (.bufferRange a) := by
  simp [hostRead, memRead, h, Nat.not_lt.mpr ha]

/-- Every address of the buffer is a word of one of the two channels (20_memory.md R51). -/
theorem exists_bufAddr_of_lt {a : Nat} (h : a < 2 * Config.NMAX) : ∃ c n, c < 2 ∧ n < Config.NMAX ∧ a = bufAddr c n :=
  ⟨a / Config.NMAX, a % Config.NMAX, Nat.div_lt_of_lt_mul (by omega), Nat.mod_lt _ Config.NMAX_pos, (Nat.div_add_mod' a _).symm⟩

/-- When no `CTL` write is due, the audio side's or the host's next act is taken (R58). -/
theorem takeNext_of_audIn {run : Instr → State F → Out (State F)} {s : State F} {a : AudInput F} {rest : List (AudInput F)}
    (hdue : ∀ w r, s.ctlIn ≠ (0, w) :: r) (ha : s.audIn = a :: rest) : takeNext run s = takeAud run a (s.setAudIn rest) := by
  rcases hc : s.ctlIn with _ | ⟨⟨_ | g, tx⟩, r⟩
  · simp only [takeNext, hc, ha]
  · exact absurd hc (hdue _ _)
  · simp only [takeNext, hc, ha]

/-- A `CTL` write that is due, or that waits for an audio side with nothing left to do, is taken (R58; log 18). -/
theorem takeNext_of_ctlIn {run : Instr → State F → Out (State F)} {s : State F} {g : Nat} {tx : ParamTx F} {rest : List (Nat × ParamTx F)}
    (hc : s.ctlIn = (g, tx) :: rest) (hg : g = 0 ∨ s.audIn = []) : takeNext run s = takeParam tx (s.setCtlIn rest) := by
  cases g with
  | zero => simp only [takeNext, hc]
  | succ g => simp only [takeNext, hc, hg.resolve_left (Nat.succ_ne_zero g)]

end Sys2Proof.Machine

namespace Sys2Proof

open Machine

/-- Settles O59, by induction on both lists: two canonical lists that read the same start with the same entry. -/
theorem bufferFormIsCanonical : Obligations.BufferFormIsCanonical := by
  unfold Obligations.BufferFormIsCanonical
  exact fun b d => eq_of_bufRead_eq

/-- Settles O38: the step takes the transaction, and its word is a legal `WRP`. -/
theorem stepLandsADueWrite : Obligations.StepLandsADueWrite := by
  unfold Obligations.StepLandsADueWrite
  intro s g tx rest a p hbuilt hc hg hd hp
  calc step s = takeParam tx (s.setCtlIn rest) := takeNext_of_ctlIn hc hg
    _ = .next (((s.setCtlIn rest).setPdata tx.opa).setParam p tx.opa) := takeParam_eq_next.mpr ⟨hbuilt, a, p, hd, hp, rfl⟩

/-- Settles O42: the layout by division with remainder, the host's accesses by who owns the word and whether it is in range. -/
theorem hostOwnsTheIdleBuffer : Obligations.HostOwnsTheIdleBuffer := by
  unfold Obligations.HostOwnsTheIdleBuffer
  refine ⟨fun c n hc hn => ⟨rfl, bufAddr_lt hc hn⟩, fun a => exists_bufAddr_of_lt, ?write, ?read, ?range, ?owned⟩
  case write =>
    intro s a v rest hidle hwf hdue haud ha
    have hstep : step s = hostWrite a v (s.setAudIn rest) := takeNext_of_audIn hdue haud
    exact ⟨bufWrite s.buf a v, hstep.trans (hostWrite_eq_next.mpr ⟨blockOwns_of_idle hidle a, ha, rfl⟩),
      bufRead_bufWrite_same (lo := 0) hwf, fun c => bufRead_bufWrite_other, bufWf_bufWrite hwf ha⟩
  case read =>
    intro s a rest hidle hdue haud ha
    have hstep : step s = hostRead a (s.setAudIn rest) := takeNext_of_audIn hdue haud
    exact hstep.trans (hostRead_eq_next.mpr ⟨blockOwns_of_idle hidle a, ha, rfl⟩)
  case range =>
    intro s a v rest hidle hdue haud ha
    have howns : blockOwns (s.setAudIn rest) a = false := blockOwns_of_idle hidle a
    rcases haud with haud | haud
    · exact (takeNext_of_audIn hdue haud).trans (hostWrite_out_of_range howns ha)
    · exact (takeNext_of_audIn hdue haud).trans (hostRead_out_of_range howns ha)
  case owned =>
    intro s c n v rest hbuilt hseq hdue _ hn hlen haud
    have howns : blockOwns (s.setAudIn rest) (bufAddr c n) = true := blockOwns_of_running hbuilt hseq hn hlen
    rcases haud with haud | haud
    · exact (takeNext_of_audIn hdue haud).trans (hostWrite_of_owned howns)
    · exact (takeNext_of_audIn hdue haud).trans (hostRead_of_owned howns)

end Sys2Proof
end

section
/-! PROOFS. `LATCH` under `CTL` writes (45_chain_commands.md R154; 20_memory.md R57 to R59): what each snapshot register can take whatever is
pending, and the exact result with a write that comes too late and with one write that lands inside. -/

namespace Sys2Proof.Machine

variable {F : Type} {N : Numerics F}

/-- `v` is what parameter `i` held in `s`, or the whole operand of a `WRP i` pending in `s`: an untorn value (R57, R59). -/
def OldOrPending (s : State F) (i : Fin 11) (v : F) : Prop := v = s.p[i] ∨ WritesTo s.ctlIn i v

/-- The snapshot register `i` of `t` holds an untorn value of `s`. -/
def Snapshotted (s t : State F) (i : Fin 11) : Prop := ∃ v, t.act[i] = some v ∧ OldOrPending s i v

theorem ParamsFromPending.snapshotted {s t u : State F} {i : Fin 11} (h : ParamsFromPending s t) (hu : u.act[i] = some t.p[i]) :
    Snapshotted s u i :=
  ⟨t.p[i], hu, h.params i⟩

/-- The snapshot as one vector of untorn values. -/
theorem exists_vector_of_snapshotted {s t : State F} (h : ∀ i, Snapshotted s t i) :
    ∃ v : Vector F 11, t.act = v.map some ∧ ∀ i : Fin 11, OldOrPending s i v[i] := by
  choose v hact hv using h
  refine ⟨Vector.ofFn v, ?_, fun i => by simpa using hv i⟩
  ext1 i hi
  simpa using hact ⟨i, hi⟩

/-- `LAT(j)` snapshots its own register and leaves the others (R154). -/
theorem copyParam_snapshotted {s t : State F} (h : ParamsFromPending s t) {i j : Fin 11} (hi : i = j ∨ Snapshotted s t i) :
    Snapshotted s (copyParam j t) i := by
  by_cases hij : j = i
  · subst hij
    exact h.snapshotted (by simp)
  · obtain ⟨v, hact, hv⟩ := hi.resolve_left (Ne.symm hij)
    exact ⟨v, by simpa [Vector.getElem_set_ne, Fin.val_ne_of_ne hij] using hact, hv⟩

variable [Inhabited F] [DecidableEq F]

/-- The list of micro-steps `LAT(p)`, for the registers of a list in its order. -/
def latSteps (l : List (Fin 11)) : List (Nat × Phase) := l.map fun p => (0, .lat p)

theorem latchPlan_eq_latSteps (o : Equiv.Perm (Fin 11)) : latchPlan o = latSteps ((List.finRange 11).map o) := latchPlan_eq o

/-- A snapshot reads every register (R154). -/
theorem mem_order (o : Equiv.Perm (Fin 11)) (i : Fin 11) : i ∈ (List.finRange 11).map o :=
  List.mem_map.mpr ⟨o.symm i, List.mem_finRange _, o.apply_symm_apply i⟩

theorem runRest_latSteps_cons (j : Fin 11) (l : List (Fin 11)) (w : Work F) :
    runRest N (latSteps (j :: l)) w =
      andThen (between (w.st.setSeq (.run 0 (.lat j)))) fun s => runRest N (latSteps l) { w with st := copyParam j s } := rfl

theorem runPlan_latSteps_cons (j : Fin 11) (l : List (Fin 11)) (w : Work F) :
    runPlan N (latSteps (j :: l)) w = runRest N (latSteps l) { w with st := copyParam j w.st } := rfl

/-- Whatever lands in the gaps, reads of parameters leave untorn values in the registers they read. -/
theorem runRest_latSteps_snapshotted {l : List (Fin 11)} {s : State F} {w w' : Work F} (hw : ParamsFromPending s w.st)
    (h : runRest N (latSteps l) w = .next w') {i : Fin 11} (hi : i ∈ l ∨ Snapshotted s w.st i) : Snapshotted s w'.st i := by
  induction l generalizing w with
  | nil =>
    cases h
    simpa using hi
  | cons j l ih =>
    rw [runRest_latSteps_cons] at h
    obtain ⟨t, hgap, hrest⟩ := andThen_eq_next.mp h
    have ht : ParamsFromPending s t :=
      (hw.trans (.of_eq (t := w.st.setSeq (.run 0 (.lat j))) rfl rfl)).trans (between_paramsFromPending hgap)
    have hact : t.act = w.st.act := (between_same hgap).act
    refine ih (ht.trans (.of_eq rfl rfl)) hrest ?_
    rcases hi with hi | ⟨v, hv, hold⟩
    · exact (List.mem_cons.mp hi).symm.imp_right fun hj => copyParam_snapshotted ht (.inl hj)
    · exact .inr (copyParam_snapshotted ht (.inr ⟨v, hact ▸ hv, hold⟩))

/-- A `LATCH` that completes leaves in every register of the snapshot an untorn value. -/
theorem execLatchIn_snapshotted {s t : State F} (h : execLatchIn N s = .next t) (i : Fin 11) : Snapshotted s t i := by
  obtain ⟨w, hw, rfl⟩ := runCommand_eq_next h
  have hmem := mem_order (Config.latchOrder s.latches) i
  obtain ⟨j, l, hl⟩ := List.exists_cons_of_ne_nil (List.ne_nil_of_mem hmem)
  rw [latchPlan_eq_latSteps, hl, runPlan_latSteps_cons] at hw
  rw [hl] at hmem
  have hs : ParamsFromPending s s.countLatch := .of_eq rfl rfl
  exact runRest_latSteps_snapshotted (hs.trans (.of_eq rfl rfl)) hw
    ((List.mem_cons.mp hmem).symm.imp_right fun hj => copyParam_snapshotted hs (.inl hj))

/-- What `LATCH` leaves when no write lands inside it: the snapshot taken, and other pending writes. -/
def afterLatch (s : State F) (c : List (Nat × ParamTx F)) : State F :=
  { s with act := s.p.map some, seq := .idle, latches := s.latches + 1, ctlIn := c }

theorem latchPlan_eq_cons (o : Equiv.Perm (Fin 11)) : ∃ e plan, e :: plan = latchPlan o ∧ plan.length = 10 :=
  List.length_eq_succ_iff.mp (by rw [latchPlan_eq_latSteps]; simp [latSteps])

/-- A write that waits for all ten gaps of a `LATCH` does not land inside it. -/
theorem execLatchIn_late {s : State F} {g : Nat} {tx : ParamTx F} {r : List (Nat × ParamTx F)} (hc : s.ctlIn = (g, tx) :: r) (hg : 10 ≤ g) :
    execLatchIn N s = .next (afterLatch s ((g - 10, tx) :: r)) := by
  obtain ⟨e, plan, hplan, hlen⟩ := latchPlan_eq_cons (Config.latchOrder s.latches)
  have hfold := latch_quiet (N := N) (Config.latchOrder s.latches) ⟨s.countLatch, Temps.blank⟩
  rw [← hplan] at hfold
  rw [execLatchIn, ← hplan, runCommand_late hc hfold (hlen ▸ hg), hlen]
  rfl

/-- With nothing pending a list of micro-steps runs as their fold, but for `SEQ`. -/
theorem runRest_of_microFold {plan : List (Nat × Phase)} {w v : Work F} (hc : w.st.ctlIn = []) (h : microFold N plan w = .next v) :
    ∃ u, runRest N plan w = .next u ∧ u.st.setSeq .idle = v.st.setSeq .idle := by
  have hquiet := runRest_quiet (N := N) plan w .idle w.st.seq hc
  rw [h, mapOut_next] at hquiet
  obtain ⟨u, hu, huv⟩ := mapOut_eq_next.mp hquiet
  exact ⟨u, hu, congrArg Work.st huv⟩

/-- What the gap in which the last pending write lands leaves. -/
def landLast (tx : ParamTx F) (i : Fin 11) (s : State F) : State F := ((s.setCtlIn []).setPdata tx.opa).setParam i tx.opa

theorem microFold_latSteps (l : List (Fin 11)) (s : State F) (tmp : Temps F) :
    ∃ act, microFold N (latSteps l) ⟨s, tmp⟩ = .next ⟨{ s with act := act }, tmp⟩ ∧
      ∀ r : Fin 11, act[r] = if r ∈ l then some s.p[r] else s.act[r] := latch_fold l ⟨s, tmp⟩

/-- Reads with one write pending that lands before the read of `j₂`: the registers read from there on are read after it, the others
before it. -/
theorem runCommand_latSteps_one_write {s : State F} {j₁ j₂ : Fin 11} {l₁ l₂ : List (Fin 11)} {tx : ParamTx F} {a : BitVec 4} {i : Fin 11}
    (hb : s.built = true) (hc : s.ctlIn = [(l₁.length, tx)]) (hd : decodeWord tx.cw = .ok (.wrp a)) (hi : paramIndex a = some i) :
    ∃ t, runCommand N (latSteps (j₁ :: l₁) ++ latSteps (j₂ :: l₂)) s = .next t ∧ t.p = s.p.set i tx.opa ∧ t.ctlIn = [] ∧
      ∀ r : Fin 11, t.act[r] = if r ∈ j₂ :: l₂ then some (s.p.set i tx.opa)[r] else if r ∈ j₁ :: l₁ then some s.p[r] else s.act[r] := by
  obtain ⟨act₁, hfold₁, hact₁⟩ := microFold_latSteps (N := N) (j₁ :: l₁) s.countLatch Temps.blank
  obtain ⟨q, hrun₁⟩ := runPlan_late (w := ⟨s.countLatch, Temps.blank⟩) hc hfold₁ (by simp)
  rw [List.length_map, Nat.sub_self] at hrun₁
  obtain ⟨act₂, hfold₂, hact₂⟩ :=
    microFold_latSteps (N := N) (j₂ :: l₂) (landLast tx i { s.countLatch with act := act₁, seq := q }) Temps.blank
  obtain ⟨u, hrun₂, hu⟩ := runRest_of_microFold rfl hfold₂
  have hrun : runPlan N (latSteps (j₁ :: l₁) ++ latSteps (j₂ :: l₂)) ⟨s.countLatch, Temps.blank⟩ = .next u :=
    calc runPlan N (latSteps (j₁ :: l₁) ++ latSteps (j₂ :: l₂)) ⟨s.countLatch, Temps.blank⟩
      _ = andThen (runPlan N (latSteps (j₁ :: l₁)) ⟨s.countLatch, Temps.blank⟩) (runRest N (latSteps (j₂ :: l₂))) := runPlan_append _ _ _
      _ = runRest N (latSteps (j₂ :: l₂)) (Work.atCtl ⟨{ s.countLatch with act := act₁ }, Temps.blank⟩ q [(0, tx)]) :=
        congrArg (andThen · _) hrun₁
      _ = runRest N (latSteps (j₂ :: l₂)) ⟨landLast tx i { s.countLatch with act := act₁, seq := q }, Temps.blank⟩ :=
        runRest_last hb rfl hd hi
      _ = .next u := hrun₂
  refine ⟨u.st.setSeq .idle, by rw [runCommand, hrun, mapOut_next], ?_⟩
  rw [hu]
  refine ⟨rfl, rfl, fun r => ?_⟩
  calc act₂[r] = if r ∈ j₂ :: l₂ then some (s.p.set i tx.opa)[r] else act₁[r] := hact₂ r
    _ = if r ∈ j₂ :: l₂ then some (s.p.set i tx.opa)[r] else if r ∈ j₁ :: l₁ then some s.p[r] else s.act[r] := by rw [hact₁ r]; rfl

/-- The registers that a snapshot reads from position `k` on. -/
theorem mem_drop_order_iff (o : Equiv.Perm (Fin 11)) (k : Nat) (r : Fin 11) :
    r ∈ ((List.finRange 11).map o).drop k ↔ k ≤ (o.symm r).val := by
  rw [List.mem_drop_iff_getElem]
  constructor
  · rintro ⟨j, hj, rfl⟩
    simp
  · intro hk
    have hlt : (o.symm r).val < 11 := (o.symm r).isLt
    exact ⟨(o.symm r).val - k, by simp; omega, by simp [Nat.add_sub_cancel' hk]⟩

/-- The reads of a snapshot cut after the one numbered `g`, which is not the last. -/
theorem order_cut (o : Equiv.Perm (Fin 11)) {g : Nat} (hg : g < 10) :
    ∃ j₁ l₁ j₂ l₂, (List.finRange 11).map o = (j₁ :: l₁) ++ (j₂ :: l₂) ∧ l₁.length = g ∧
      ∀ r : Fin 11, r ∈ j₂ :: l₂ ↔ g < (o.symm r).val := by
  have hlen : (((List.finRange 11).map o).take (g + 1)).length = g + 1 := by simp; omega
  obtain ⟨j₁, l₁, htake, hl₁⟩ := List.length_eq_succ_iff.mp hlen
  obtain ⟨j₂, l₂, hdrop⟩ := List.exists_cons_of_length_pos (l := ((List.finRange 11).map o).drop (g + 1)) (by simp; omega)
  exact ⟨j₁, l₁, j₂, l₂, by rw [htake, ← hdrop, List.take_append_drop], hl₁, fun r => hdrop ▸ mem_drop_order_iff o (g + 1) r⟩

/-- A write that lands inside a `LATCH` is seen by the reads with a number above its waiting count, and by no other. -/
theorem execLatchIn_one_write {s : State F} {g : Nat} {tx : ParamTx F} {a : BitVec 4} {i : Fin 11} (hg : g < 10) (hb : s.built = true)
    (hc : s.ctlIn = [(g, tx)]) (hd : decodeWord tx.cw = .ok (.wrp a)) (hi : paramIndex a = some i) :
    ∃ t, execLatchIn N s = .next t ∧ t.p = s.p.set i tx.opa ∧ t.ctlIn = [] ∧
      ∀ r : Fin 11, t.act[r] = some (if g < ((Config.latchOrder s.latches).symm r).val then (s.p.set i tx.opa)[r] else s.p[r]) := by
  obtain ⟨j₁, l₁, j₂, l₂, hcut, rfl, hmem⟩ := order_cut (Config.latchOrder s.latches) hg
  obtain ⟨t, ht, hp, hq, hact⟩ := runCommand_latSteps_one_write (N := N) (j₁ := j₁) (j₂ := j₂) (l₂ := l₂) hb hc hd hi
  refine ⟨t, ?_, hp, hq, fun r => ?_⟩
  · rwa [execLatchIn, latchPlan_eq_latSteps, hcut, latSteps, List.map_append]
  · have hread : r ∈ j₁ :: l₁ ∨ r ∈ j₂ :: l₂ := List.mem_append.mp (hcut ▸ mem_order _ r)
    rw [hact]
    by_cases hr : r ∈ j₂ :: l₂
    · rw [if_pos hr, if_pos ((hmem r).mp hr)]
    · rw [if_neg hr, if_neg (mt (hmem r).mpr hr), if_pos (hread.resolve_right hr)]

end Sys2Proof.Machine

namespace Sys2Proof

open Machine

/-- Settles O11: untorn snapshot and parameters by the pending writes, the rest because neither `LAT(p)` nor a gap touches it. -/
theorem latchTearsNothing : Obligations.LatchTearsNothing := by
  unfold Obligations.LatchTearsNothing
  intro s t h
  rw [exec_eq_execIn] at h
  have hout := runCommand_outside h
  have hchain := execLatchIn_sameChain h
  exact ⟨execLatchIn_snapshotted h, (runCommand_paramsFromPending h).params, hout.fs, hchain.coef, hchain.z, hchain.buf, runCommand_seq h,
    hout.built, hout.opa, hout.opb, hout.len, hout.rsa, hout.rsb, hout.rdata, hout.audIn⟩

/-- Settles O12: a write that waits for ten gaps lands after the snapshot; any other cuts the reads in two. -/
theorem latchSeesWriteByPosition : Obligations.LatchSeesWriteByPosition := by
  unfold Obligations.LatchSeesWriteByPosition
  intro s g a p tx hbuilt hc hd hp
  rw [exec_eq_execIn]
  by_cases hg : g < 10
  · obtain ⟨t, ht, hparams, hpending, hact⟩ := execLatchIn_one_write hg hbuilt hc hd hp
    refine ⟨t, ht, ?_, fun q hq => ?_, by rw [if_pos hg, hparams], by rw [if_pos hg, hpending]⟩
    · simp [hact p]
    · simp [hact q, Vector.getElem_set_ne, Fin.val_ne_of_ne (Ne.symm hq)]
  · have hpos : ¬ g < ((Config.latchOrder s.latches).symm p).val := by omega
    refine ⟨_, execLatchIn_late hc (Nat.le_of_not_lt hg), ?_⟩
    simp [afterLatch, hg, hpos]

end Sys2Proof
end

section
/-! PROOFS. What a block computes (45_chain_commands.md R158, R160, R161): the micro-steps after the snapshot, with nothing landing between
them, compute the coefficients from it and then do what the functions of the chain say, frame by frame in place. -/

namespace Sys2Proof.Machine

variable {F : Type} {N : Numerics F}

/-- What the chain carries from frame to frame: the buffer and the filter states. -/
def State.chainPart (s : State F) : List (Nat × F) × ChainState F := (s.buf, chainStateOf s.z)

/-- Another buffer and other filter states. -/
def State.withChain (s : State F) (r : List (Nat × F) × ChainState F) : State F := { s with buf := r.1, z := zOf r.2 }

theorem zOf_chainStateOf (z : Vector (ZPair F) 3) : zOf (chainStateOf z) = z := by
  ext1 i hi
  match i, hi with
  | 0, _ => rfl
  | 1, _ => rfl
  | 2, _ => rfl

@[simp] theorem State.withChain_self (s : State F) : s.withChain s.chainPart = s := by
  rw [State.withChain, State.chainPart, zOf_chainStateOf]

/-- The registers that a frame reads beside its filter states hold the parameters `q`. -/
structure RunsWith (q : ChainParams F) (s : State F) : Prop where
  mid : s.coef[(0 : Fin 3)] = some q.mid
  high : s.coef[(1 : Fin 3)] = some q.high
  side : s.coef[(2 : Fin 3)] = some q.side
  makeUp : s.act[(10 : Fin 11)] = some q.makeUp
  sat : readSatParams s = .next q.sat

theorem RunsWith.withChain {q : ChainParams F} {s : State F} (h : RunsWith q s) (r : List (Nat × F) × ChainState F) :
    RunsWith q (s.withChain r) :=
  ⟨h.mid, h.high, h.side, h.makeUp, h.sat⟩

theorem RunsWith.setZ {q : ChainParams F} {s : State F} (h : RunsWith q s) (k : Fin 3) (z : ZPair F) : RunsWith q (s.setZ k z) :=
  ⟨h.mid, h.high, h.side, h.makeUp, h.sat⟩

theorem State.setZ_z_ne (s : State F) {j k : Fin 3} (h : k ≠ j) (v : ZPair F) : (s.setZ k v).z[j] = s.z[j] :=
  Vector.getElem_set_ne k.isLt j.isLt (Fin.val_ne_of_ne h)

/-- A register file of the three stages, each register written. -/
theorem set_each {α : Type} (v : Vector α 3) (a b c : α) : ((v.set 0 a).set 1 b).set 2 c = #v[a, b, c] := by
  ext1 i hi
  obtain rfl | rfl | rfl : i = 0 ∨ i = 1 ∨ i = 2 := by omega
  all_goals simp

theorem State.setZ_each (s : State F) (a b c : ZPair F) : ((s.setZ 0 a).setZ 1 b).setZ 2 c = s.withChain (s.buf, ⟨a, b, c⟩) :=
  congrArg (fun z => { s with z := z }) (set_each s.z a b c)

/-- The three stages on a frame's mid and side samples: mid shelf on the one, high-pass and side shelf on the other. -/
def chainStages (N : Numerics F) (q : ChainParams F) (z : ChainState F) (m d : F) : (F × F) × ChainState F :=
  let r0 := biquadStep N q.mid z.z0 m
  let r1 := biquadStep N q.high z.z1 d
  let r2 := biquadStep N q.side z.z2 r1.1
  ((r0.1, r2.1), ⟨r0.2, r1.2, r2.2⟩)

/-- What follows the stages on a frame: decode, saturate both channels. -/
def chainOutput (N : Numerics F) (q : ChainParams F) (m d : F) : F × F :=
  let lr := midSideDecode N q.makeUp m d
  (saturate N q.sat lr.1, saturate N q.sat lr.2)

theorem chainFrame_eq (q : ChainParams F) (z : ChainState F) (x : F × F) :
    chainFrame N q z x =
      let ms := midSideEncode N x.1 x.2
      let r := chainStages N q z ms.1 ms.2
      (chainOutput N q r.1.1 r.1.2, r.2) := rfl

/-! The coefficients of a block (R158): computed from the snapshot. -/

/-- The three coefficient sets of a block. -/
def State.withCoefs (s : State F) (q : ChainParams F) : State F := { s with coef := #v[some q.mid, some q.high, some q.side] }

theorem State.setCoef_each (s : State F) (q : ChainParams F) :
    ((s.setCoef 0 (some q.mid)).setCoef 1 (some q.high)).setCoef 2 (some q.side) = s.withCoefs q :=
  congrArg (fun coef => { s with coef := coef }) (set_each s.coef (some q.mid) (some q.high) (some q.side))

/-- The snapshot is written whole, with the values `v`. -/
def HasSnapshot (s : State F) (v : Vector F 11) : Prop := s.act = v.map some

theorem HasSnapshot.act {s : State F} {v : Vector F 11} (h : HasSnapshot s v) (i : Fin 11) : s.act[i] = some v[i] := by
  rw [show s.act = v.map some from h]
  simp

theorem HasSnapshot.setCoef {s : State F} {v : Vector F 11} (h : HasSnapshot s v) (k : Fin 3) (c : Option (Coef F)) :
    HasSnapshot (s.setCoef k c) v := h

theorem calcShelf_of_snapshot {s : State F} {v : Vector F 11} {fs : F} (h : HasSnapshot s v) (hfs : s.fs = some fs) (k : Shelf) :
    calcShelf N k s =
      if cutoffOk N v[shelfFreq k] fs then .next (s.setCoef (shelfStage k) (some (shelfCoef N v[shelfGain k] v[shelfFreq k] fs)))
      else .refused .v1Cutoff := by
  simp only [calcShelf, readFs, readAct, hfs, h.act, readWritten_some, andThen_next]

theorem calcHighPass_of_snapshot {s : State F} {v : Vector F 11} {fs : F} (h : HasSnapshot s v) (hfs : s.fs = some fs) :
    calcHighPass N s =
      if cutoffOk N v[highPassFreq] fs then .next (s.setCoef 1 (some (highPassCoef N v[highPassFreq] fs)))
      else .refused .v1Cutoff := by
  simp only [calcHighPass, readFs, readAct, hfs, h.act, readWritten_some, andThen_next]

/-- A block's coefficients and snapshot are what its frames read. -/
theorem HasSnapshot.runsWith {s : State F} {v : Vector F 11} (h : HasSnapshot s v) (fs : F) :
    RunsWith (blockParams N v fs) (s.withCoefs (blockParams N v fs)) where
  mid := rfl
  high := rfl
  side := rfl
  makeUp := h.act 10
  sat := readSatParams_eq_next.mpr ⟨h.act 5, h.act 6, h.act 7, h.act 8, h.act 9⟩

variable [Inhabited F] [DecidableEq F]

/-! A frame in four parts (R161). -/

/-- Load and encode. -/
def loadPlan (n : Nat) : List (Nat × Phase) := [(n, .ld0), (n, .ld1), (n, .enc)]

/-- The three stages. -/
def stagesPlan (n : Nat) : List (Nat × Phase) := [(n, .bq0), (n, .bq1), (n, .bq2)]

/-- Decode and saturate. -/
def outputPlan (n : Nat) : List (Nat × Phase) := [(n, .dec), (n, .sat0), (n, .sat1)]

/-- Store. -/
def storePlan (n : Nat) : List (Nat × Phase) := [(n, .st0), (n, .st1)]

theorem framePlan_eq_parts (n : Nat) : framePlan n = loadPlan n ++ (stagesPlan n ++ (outputPlan n ++ storePlan n)) := rfl

theorem microFold_load {n : Nat} (hn : n < Config.NMAX) (s : State F) (tmp : Temps F) :
    ∃ tmp', microFold N (loadPlan n) ⟨s, tmp⟩ = .next ⟨s, tmp'⟩ ∧
      tmp'.m = (midSideEncode N (frameAt s.buf n).1 (frameAt s.buf n).2).1 ∧
      tmp'.s = (midSideEncode N (frameAt s.buf n).1 (frameAt s.buf n).2).2 := by
  have hread (c : Nat) (hc : c < 2) := memRead_of_lt (s := s) (bufAddr_lt hc hn)
  simp only [loadPlan, microFold, micro, hread 0 (by omega), hread 1 (by omega), mapOut_next, andThen_next]
  exact ⟨_, rfl, rfl, rfl⟩

theorem microFold_stages {q : ChainParams F} {s : State F} (n : Nat) (h : RunsWith q s) (tmp : Temps F) :
    ∃ tmp', microFold N (stagesPlan n) ⟨s, tmp⟩ =
        .next ⟨s.withChain (s.buf, (chainStages N q (chainStateOf s.z) tmp.m tmp.s).2), tmp'⟩ ∧
      tmp'.m1 = (chainStages N q (chainStateOf s.z) tmp.m tmp.s).1.1 ∧ tmp'.s2 = (chainStages N q (chainStateOf s.z) tmp.m tmp.s).1.2 := by
  simp only [stagesPlan, microFold, micro, runStage_of_written h.mid, runStage_of_written (h.setZ 0 _).high,
    runStage_of_written ((h.setZ 0 _).setZ 1 _).side, State.setZ_z_ne _ (show (0 : Fin 3) ≠ 1 by decide),
    State.setZ_z_ne _ (show (0 : Fin 3) ≠ 2 by decide), State.setZ_z_ne _ (show (1 : Fin 3) ≠ 2 by decide), State.setZ_each,
    mapOut_next, andThen_next]
  exact ⟨_, rfl, rfl, rfl⟩

theorem microFold_output {q : ChainParams F} {s : State F} (n : Nat) (h : RunsWith q s) (tmp : Temps F) :
    ∃ tmp', microFold N (outputPlan n) ⟨s, tmp⟩ = .next ⟨s, tmp'⟩ ∧
      (tmp'.Lo, tmp'.Ro) = chainOutput N q tmp.m1 tmp.s2 := by
  have hdec : decodeFrame N tmp.m1 tmp.s2 s = .next (midSideDecode N q.makeUp tmp.m1 tmp.s2) :=
    decodeFrame_eq_next.mpr ⟨q.makeUp, h.makeUp, rfl⟩
  have hsat (x : F) : saturateSample N x s = .next (saturate N q.sat x) := saturateSample_eq_next.mpr ⟨q.sat, h.sat, rfl⟩
  simp only [outputPlan, microFold, micro, hdec, hsat, mapOut_next, andThen_next]
  exact ⟨_, rfl, rfl⟩

/-- The two stores overwrite the frame, channel 0 first (20_memory.md R54). -/
theorem microFold_store {n : Nat} (hn : n < Config.NMAX) (s : State F) (tmp : Temps F) :
    microFold N (storePlan n) ⟨s, tmp⟩ = .next ⟨s.setBuf (putFrame s.buf n (tmp.Lo, tmp.Ro)), tmp⟩ := by
  have hwrite (c : Nat) (hc : c < 2) (s : State F) (v : F) := memWrite_of_lt (s := s) (v := v) (bufAddr_lt hc hn)
  simp only [storePlan, microFold, micro, hwrite 0 (by omega), hwrite 1 (by omega), mapOut_next, andThen_next]
  rfl

/-- The eleven micro-steps of a frame in the buffer are the chain on that frame, in place (R161). -/
theorem microFold_framePlan {q : ChainParams F} {s : State F} {n : Nat} (h : RunsWith q s) (hn : n < Config.NMAX) (tmp : Temps F) :
    ∃ tmp', microFold N (framePlan n) ⟨s, tmp⟩ = .next ⟨s.withChain (chainInPlace N q s.chainPart n), tmp'⟩ := by
  obtain ⟨t₁, hload, hm, hs⟩ := microFold_load (N := N) hn s tmp
  obtain ⟨t₂, hstages, hm1, hs2⟩ := microFold_stages (N := N) n h t₁
  obtain ⟨t₃, houtput, hout⟩ := microFold_output (N := N) n (h.withChain (s.buf, (chainStages N q (chainStateOf s.z) t₁.m t₁.s).2)) t₂
  rw [chainInPlace, chainFrame_eq, framePlan_eq_parts, microFold_append, hload, andThen_next, microFold_append, hstages, andThen_next,
    microFold_append, houtput, andThen_next, microFold_store hn, hout, hm1, hs2, hm, hs]
  exact ⟨t₃, rfl⟩

/-- A list of frames in the buffer, one after the other (R158). -/
theorem microFold_frames {q : ChainParams F} {s : State F} {ns : List Nat} (h : RunsWith q s) (hns : ∀ n ∈ ns, n < Config.NMAX)
    (tmp : Temps F) :
    ∃ tmp', microFold N (ns.flatMap framePlan) ⟨s, tmp⟩ = .next ⟨s.withChain (ns.foldl (chainInPlace N q) s.chainPart), tmp'⟩ := by
  induction ns generalizing s tmp with
  | nil => exact ⟨tmp, by simp [microFold]⟩
  | cons n ns ih =>
    obtain ⟨t, hframe⟩ := microFold_framePlan (N := N) h (hns n List.mem_cons_self) tmp
    obtain ⟨t', hrest⟩ := ih (h.withChain (chainInPlace N q s.chainPart n)) (fun m hm => hns m (List.mem_cons_of_mem _ hm)) t
    exact ⟨t', by rw [List.flatMap_cons, microFold_append, hframe, andThen_next, hrest]; rfl⟩

/-- With the snapshot and the rate written, the three coefficient computations complete exactly when the block's cutoffs are legal (R159). -/
theorem microFold_coefPlan {s : State F} {v : Vector F 11} {fs : F} (h : HasSnapshot s v) (hfs : s.fs = some fs) (tmp : Temps F) :
    microFold N coefPlan ⟨s, tmp⟩ =
      if blockCutoffsOk N v fs then .next ⟨s.withCoefs (blockParams N v fs), tmp⟩ else .refused .v1Cutoff := by
  have hmid := calcShelf_of_snapshot (N := N) h hfs .mid
  have hhigh c := calcHighPass_of_snapshot (N := N) (h.setCoef (shelfStage .mid) c) hfs
  have hside c d := calcShelf_of_snapshot (N := N) ((h.setCoef (shelfStage .mid) c).setCoef 1 d) hfs .side
  have hcutoffs : blockCutoffsOk N v fs =
    (cutoffOk N v[shelfFreq .mid] fs && cutoffOk N v[highPassFreq] fs && cutoffOk N v[shelfFreq .side] fs) := rfl
  rw [hcutoffs]
  simp only [coefPlan, microFold, micro, hmid]
  cases cutoffOk N v[shelfFreq .mid] fs with
  | false => rfl
  | true =>
    simp only [if_true, mapOut_next, andThen_next, hhigh, Bool.true_and]
    cases cutoffOk N v[highPassFreq] fs with
    | false => rfl
    | true =>
      simp only [if_true, mapOut_next, andThen_next, hside, Bool.true_and]
      cases cutoffOk N v[shelfFreq .side] fs with
      | false => rfl
      | true =>
        rw [← State.setCoef_each]
        rfl

/-! The micro-steps of a block that follow its snapshot. -/

/-- The coefficient computations and the frames of a block of `n` frames (R160). -/
def blockPlan (n : Nat) : List (Nat × Phase) := coefPlan ++ (List.range n).flatMap framePlan

theorem procPlan_eq_latch_block (o : Equiv.Perm (Fin 11)) (n : Nat) : procPlan o n = latchPlan o ++ blockPlan n :=
  List.append_assoc _ _ _

/-- What a block of `n` frames leaves when it runs with the parameters `q`. -/
def afterBlock (N : Numerics F) (q : ChainParams F) (n : Nat) (s : State F) : State F :=
  (s.withCoefs q).withChain ((List.range n).foldl (chainInPlace N q) s.chainPart)

/-- After the snapshot a block that fits runs to its end exactly when its cutoffs are legal (R158, R159). -/
theorem microFold_blockPlan {s : State F} {v : Vector F 11} {fs : F} {n : Nat} (h : HasSnapshot s v) (hfs : s.fs = some fs)
    (hn : n ≤ Config.NMAX) (tmp : Temps F) :
    ∃ tmp', microFold N (blockPlan n) ⟨s, tmp⟩ =
      if blockCutoffsOk N v fs then .next ⟨afterBlock N (blockParams N v fs) n s, tmp'⟩ else .refused .v1Cutoff := by
  have hframes : ∀ m ∈ List.range n, m < Config.NMAX := fun m hm => Nat.lt_of_lt_of_le (List.mem_range.mp hm) hn
  obtain ⟨tmp', hrun⟩ := microFold_frames (N := N) (h.runsWith fs) hframes tmp
  refine ⟨tmp', ?_⟩
  rw [blockPlan, microFold_append, microFold_coefPlan h hfs]
  cases blockCutoffsOk N v fs with
  | false => rfl
  | true => exact hrun

end Sys2Proof.Machine
end

section
/-! PROOFS. `PROC` under `CTL` writes (45_chain_commands.md R158; 20_memory.md R54, R59): a `PROC` is a `LATCH` and then the block's own
micro-steps, which read nothing that a `CTL` write changes. -/

namespace Sys2Proof.Machine

variable {F : Type} {N : Numerics F}

/-- `s` with the fields that change in the gaps of a command as `c` has them: `P`, the parameter port and `SEQ`. -/
def State.withCtl (s c : State F) : State F := { s with p := c.p, pdata := c.pdata, ctlIn := c.ctlIn, seq := c.seq }

/-- A command in progress likewise. -/
def Work.withCtl (w : Work F) (c : State F) : Work F := { w with st := w.st.withCtl c }

/-- What differs in `P`, the parameter port and `SEQ` only. -/
theorem SameButParams.eq_withCtl {s t : State F} (h : SameButParams s t) : t = s.withCtl t := by
  simp only [State.withCtl, ← h.fs, ← h.act, ← h.coef, ← h.z, ← h.buf, ← h.built, ← h.opa, ← h.opb, ← h.len, ← h.rsa, ← h.rsb, ← h.rdata,
    ← h.audIn, ← h.latches]

theorem gap_eq_withCtl {s t : State F} {q : Seq} (h : between (s.setSeq q) = .next t) : t = s.withCtl t :=
  (between_same h).eq_withCtl

theorem calcShelf_withCtl (k : Shelf) (s c : State F) :
    calcShelf N k (s.withCtl c) = mapOut (fun t => t.withCtl c) (calcShelf N k s) := by
  simp only [calcShelf, mapOut_andThen, apply_ite (mapOut _), mapOut_next, mapOut_refused]
  rfl

theorem calcHighPass_withCtl (s c : State F) :
    calcHighPass N (s.withCtl c) = mapOut (fun t => t.withCtl c) (calcHighPass N s) := by
  simp only [calcHighPass, mapOut_andThen, apply_ite (mapOut _), mapOut_next, mapOut_refused]
  rfl

theorem runStage_withCtl (k : Fin 3) (x : F) (s c : State F) :
    runStage N k x (s.withCtl c) = mapOut (fun r => (r.1, r.2.withCtl c)) (runStage N k x s) := by
  simp only [runStage, mapOut_andThen, mapOut_next]
  rfl

variable [Inhabited F] [DecidableEq F]

theorem memWrite_withCtl (s c : State F) (a : Nat) (v : F) :
    memWrite (s.withCtl c) a v = mapOut (fun t => t.withCtl c) (memWrite s a v) := by
  unfold memWrite
  split <;> rfl

/-- No micro-step but `LAT(p)` reads `P`, the parameter port or `SEQ` (R59, item 5). -/
theorem micro_withCtl {ph : Phase} (hph : ∀ p, ph ≠ .lat p) (n : Nat) (w : Work F) (c : State F) :
    micro N n ph (w.withCtl c) = mapOut (fun v => v.withCtl c) (micro N n ph w) := by
  cases ph <;>
    simp only [micro, Work.withCtl, calcShelf_withCtl, calcHighPass_withCtl, runStage_withCtl, memWrite_withCtl, mapOut_mapOut]
  case lat p => exact absurd rfl (hph p)
  all_goals rfl

/-- Micro-steps after the snapshot run under `CTL` writes as they run alone. -/
theorem runRest_eq_microFold {plan : List (Nat × Phase)} (hplan : ∀ e ∈ plan, ∀ p, e.2 ≠ .lat p) {w w' : Work F} {c : State F}
    (h : runRest N plan (w.withCtl c) = .next w') : ∃ v, microFold N plan w = .next v ∧ w' = v.withCtl w'.st := by
  induction plan generalizing w c with
  | nil =>
    cases h
    exact ⟨w, rfl, rfl⟩
  | cons e rest ih =>
    obtain ⟨n, ph⟩ := e
    obtain ⟨s, hgap, h⟩ := andThen_eq_next.mp h
    have hs : s = w.st.withCtl s := gap_eq_withCtl (s := w.st.withCtl c) hgap
    have hmicro := micro_withCtl (N := N) (hplan _ List.mem_cons_self) n w s
    rw [Work.withCtl, ← hs] at hmicro
    obtain ⟨_, hm, hrest⟩ := andThen_eq_next.mp h
    obtain ⟨u, hu, rfl⟩ := mapOut_eq_next.mp (hmicro.symm.trans hm)
    obtain ⟨v, hv, hw'⟩ := ih (fun e he => hplan e (List.mem_cons_of_mem _ he)) hrest
    exact ⟨v, andThen_eq_next.mpr ⟨u, hu, hv⟩, hw'⟩

theorem blockPlan_not_lat {n : Nat} {e : Nat × Phase} (he : e ∈ blockPlan n) (p : Fin 11) : e.2 ≠ .lat p := by
  have hcoef : ∀ e ∈ coefPlan, e.2 ≠ .lat p := by simp [coefPlan]
  have hframe (m : Nat) : ∀ e ∈ framePlan m, e.2 ≠ .lat p := by simp [framePlan]
  rcases List.mem_append.mp he with he | he
  · exact hcoef e he
  · obtain ⟨m, _, he⟩ := List.mem_flatMap.mp he
    exact hframe m e he

/-- A non-empty `PROC` that completes fits, has a rate, and ran its plan (R158). -/
theorem execProcIn_of_nonempty {s t : State F} (h : execProcIn N s = .next t) (hlen : s.len ≠ 0#32) :
    s.len.toNat ≤ Config.NMAX ∧ (∃ fs, s.fs = some fs) ∧
      runCommand N (procPlan (Config.latchOrder s.latches) s.len.toNat) s = .next t := by
  rcases execProcIn_eq_next.mp h with ⟨h0, _⟩ | ⟨_, hfit, hrate, hrun⟩
  · exact absurd h0 hlen
  · exact ⟨hfit, Option.isSome_iff_exists.mp hrate, hrun⟩

/-- A non-empty `PROC` that completes is a `LATCH` and then its block (R158), whatever lands in the gaps of either. -/
theorem execProcIn_latch_block {s t : State F} (h : execProcIn N s = .next t) (hlen : s.len ≠ 0#32) :
    ∃ l tmp w, execLatchIn N s = .next l ∧ microFold N (blockPlan s.len.toNat) ⟨l, tmp⟩ = .next w ∧ t = w.st.withCtl t := by
  obtain ⟨_, _, hrun⟩ := execProcIn_of_nonempty h hlen
  obtain ⟨w, hplan, rfl⟩ := runCommand_eq_next hrun
  obtain ⟨e, plan, hcons, _⟩ := latchPlan_eq_cons (Config.latchOrder s.latches)
  rw [procPlan_eq_latch_block, ← hcons, runPlan_append, hcons] at hplan
  obtain ⟨w₁, hlatch, hblock⟩ := andThen_eq_next.mp hplan
  obtain ⟨v, hv, hw⟩ := runRest_eq_microFold (w := ⟨w₁.st.setSeq .idle, w₁.tmp⟩) (c := w₁.st) (fun e he => blockPlan_not_lat he) hblock
  exact ⟨w₁.st.setSeq .idle, w₁.tmp, v, mapOut_eq_next.mpr ⟨w₁, hlatch, rfl⟩, hv,
    congrArg (fun u : Work F => u.st.setSeq .idle) hw⟩

/-- A non-empty `PROC` that completes leaves what its block computes from the snapshot that its `LATCH` takes. -/
theorem execProcIn_runs_on_snapshot {s t : State F} (h : execProcIn N s = .next t) (hlen : s.len ≠ 0#32) :
    ∃ l v fs, execLatchIn N s = .next l ∧ HasSnapshot l v ∧ (∀ i : Fin 11, OldOrPending s i v[i]) ∧ s.fs = some fs ∧
      blockCutoffsOk N v fs = true ∧ t = (afterBlock N (blockParams N v fs) s.len.toNat l).withCtl t := by
  obtain ⟨hfit, ⟨fs, hfs⟩, _⟩ := execProcIn_of_nonempty h hlen
  obtain ⟨l, tmp, w, hlatch, hblock, ht⟩ := execProcIn_latch_block h hlen
  obtain ⟨v, hact, hv⟩ := exists_vector_of_snapshotted (execLatchIn_snapshotted hlatch)
  obtain ⟨tmp', hrun⟩ := microFold_blockPlan (N := N) (v := v) hact ((runCommand_outside hlatch).fs.trans hfs) hfit tmp
  rw [hblock] at hrun
  split at hrun
  next hok =>
    cases hrun
    exact ⟨l, v, fs, hlatch, hact, hv, hfs, hok, ht⟩
  next => cases hrun

/-- A non-empty `PROC` that fits, with a rate, legal cutoffs and nothing pending, completes as the chain (R158, R161). -/
theorem execProcIn_quiet {s : State F} {fs : F} (hq : s.ctlIn = []) (hlen : s.len ≠ 0#32) (hfit : s.len.toNat ≤ Config.NMAX)
    (hfs : s.fs = some fs) (hok : blockCutoffsOk N s.p fs = true) : execProcIn N s = .next (afterProc N s fs) := by
  obtain ⟨tmp, hblock⟩ := microFold_blockPlan (N := N) (s := { s.countLatch with act := s.p.map some }) (v := s.p) rfl hfs hfit Temps.blank
  rw [if_pos hok] at hblock
  refine execProcIn_eq_next.mpr (.inr ⟨hlen, hfit, by simp [hfs], ?_⟩)
  rw [runCommand_quiet _ _ hq, procPlan_eq_latch_block, microFold_append, latch_quiet, andThen_next]
  exact congrArg (mapOut _) hblock

end Sys2Proof.Machine

namespace Sys2Proof

open Machine

/-- Settles O28: `PROC` either does nothing or ends idle, and writes the words of its frames only. -/
theorem procTouchesOnlyItsFrames : Obligations.ProcTouchesOnlyItsFrames := by
  refine InAnyNumerics.intro fun F _ _ N s t h => ⟨fun hidle => ?_, fun a ha => ?_⟩
  · rcases execProcIn_eq_next.mp h with ⟨_, rfl⟩ | ⟨_, _, _, hrun⟩
    · exact hidle
    · exact runCommand_seq hrun
  · refine (execProcIn_bufRead h a).resolve_right ?_
    rintro ⟨c, n, hc, hn, hcn⟩
    exact ha c n hc hn hcn

/-- Settles O27: the `LATCH` in the `PROC` takes the snapshot, and the block after it reads no parameter. -/
theorem procRunsOnItsSnapshot : Obligations.ProcRunsOnItsSnapshot := by
  refine InAnyNumerics.intro fun F _ _ N s t h hlen => ?_
  obtain ⟨l, v, fs, hlatch, hact, hv, hfs, hok, ht⟩ := execProcIn_runs_on_snapshot h hlen
  have hchain := execLatchIn_sameChain hlatch
  have hpart : l.chainPart = (s.buf, chainStateOf s.z) := by rw [State.chainPart, hchain.buf, hchain.z]
  have hz := congrArg State.z ht
  have hbuf := congrArg State.buf ht
  obtain ⟨_, _, hrun⟩ := execProcIn_of_nonempty h hlen
  have hout := runCommand_outside hrun
  exact ⟨fs, v, hfs, hok, hv, (congrArg State.act ht).trans hact, ⟨congrArg State.coef ht, hpart ▸ hz, hpart ▸ hbuf⟩, hout.fs,
    runCommand_seq hrun, hout.built, hout.opa, hout.opb, hout.len, hout.rsa, hout.rsb, hout.rdata, hout.audIn,
    (runCommand_paramsFromPending hrun).params⟩

/-- Settles O30: a write that waits for ten gaps lands after the snapshot, so that the snapshot is `P`, as with nothing pending. -/
theorem lateWritesChangeNothing : Obligations.LateWritesChangeNothing := by
  refine InAnyNumerics.intro fun F _ _ N s t g w r hc hg h => ?_
  rcases execProcIn_eq_next.mp h with ⟨h0, rfl⟩ | ⟨hlen, hfit, _, _⟩
  · exact ⟨{ t with ctlIn := [] }, execProcIn_eq_next.mpr (.inl ⟨h0, rfl⟩), rfl, rfl, rfl, rfl⟩
  · obtain ⟨l, v, fs, hlatch, hact, _, hfs, hok, ht⟩ := execProcIn_runs_on_snapshot h hlen
    cases (execLatchIn_late hc hg).symm.trans hlatch
    obtain rfl : s.p = v := Vector.map_inj_right (fun _ _ => Option.some.inj) |>.mp hact
    exact ⟨_, execProcIn_quiet (s := { s with ctlIn := [] }) rfl hlen hfit hfs hok, (congrArg State.act ht).trans rfl,
      (congrArg State.coef ht).trans rfl, (congrArg State.z ht).trans rfl, (congrArg State.buf ht).trans rfl⟩

end Sys2Proof
end

section
/-! PROOFS. The decoder and the encoder (30_encoding.md R71, R74 to R76, R82): which words decode is said once, over the fields `op` and
`arg` of a word, and the round trips, the `arg` constraints and the words of the table are read off it. -/

namespace Sys2Proof

/-! The two fields and the word they make (R71). -/

@[simp] theorem opField_append (op arg : BitVec 4) : opField (op ++ arg) = op := BitVec.extractLsb'_append_eq_left

@[simp] theorem argField_append (op arg : BitVec 4) : argField (op ++ arg) = arg := BitVec.extractLsb'_append_eq_right

theorem opField_append_argField (w : CommandWord) : opField w ++ argField w = w := by
  exact (BitVec.extractLsb'_append_extractLsb'_eq_extractLsb' rfl).trans BitVec.extractLsb'_eq_self

/-! What the decoder asks of `arg` (R75). -/

theorem plainCommand_eq_ok {i j : Instr} {op arg : BitVec 4} : plainCommand i op arg = .ok j ↔ arg = 0#4 ∧ i = j := by
  unfold plainCommand
  split <;> simp [*]

theorem indexedCommand_eq_ok {mk : BitVec 4 → Instr} {ok : BitVec 4 → Bool} {op arg : BitVec 4} {j : Instr} :
    indexedCommand mk ok op arg = .ok j ↔ ok arg = true ∧ mk arg = j := by
  unfold indexedCommand
  split <;> simp [*]

theorem shelfArgOk_iff (k : BitVec 4) : shelfArgOk k = true ↔ k = 0#4 ∨ k = 2#4 := by
  simp [shelfArgOk, ← BitVec.toNat_inj]

theorem stageArgOk_iff (k : BitVec 4) : stageArgOk k = true ↔ k = 0#4 ∨ k = 1#4 ∨ k = 2#4 := by
  simp only [stageArgOk, decide_eq_true_eq, ← BitVec.toNat_inj, BitVec.toNat_ofNat]
  omega

/-- R74 to R76 in one line: a word decodes to the well-formed commands that have its `op` and its `arg`, and to no other. -/
theorem decodeWord_append_eq_ok {op arg : BitVec 4} {i : Instr} :
    decodeWord (op ++ arg) = .ok i ↔ WellFormed i = true ∧ i.op = op ∧ i.arg = arg := by
  constructor
  · intro h
    simp only [decodeWord, opField_append, argField_append] at h
    split at h
    case h_3 hop | h_5 hop | h_7 hop =>
      obtain ⟨hok, rfl⟩ := indexedCommand_eq_ok.mp h
      exact ⟨hok, BitVec.eq_of_toNat_eq hop.symm, rfl⟩
    case h_12 => cases h
    case h_1 hop | h_2 hop | h_4 hop | h_6 hop | h_8 hop | h_9 hop | h_10 hop | h_11 hop =>
      obtain ⟨rfl, rfl⟩ := plainCommand_eq_ok.mp h
      exact ⟨rfl, BitVec.eq_of_toNat_eq hop.symm, rfl⟩
  · rintro ⟨hwf, rfl, rfl⟩
    simp only [decodeWord, opField_append, argField_append]
    cases i with
    | wrp p => exact indexedCommand_eq_ok.mpr ⟨hwf, rfl⟩
    | cls k => exact indexedCommand_eq_ok.mpr ⟨hwf, rfl⟩
    | bq k => exact indexedCommand_eq_ok.mpr ⟨hwf, rfl⟩
    | _ => exact plainCommand_eq_ok.mpr ⟨rfl, rfl⟩

/-- R76, R82: the decoder and the encoder are inverse to each other between the legal words and the well-formed commands. -/
theorem decodeWord_eq_ok {w : CommandWord} {i : Instr} : decodeWord w = .ok i ↔ WellFormed i = true ∧ encode i = w := by
  constructor
  · intro h
    rw [← opField_append_argField w] at h
    obtain ⟨hwf, hop, harg⟩ := decodeWord_append_eq_ok.mp h
    exact ⟨hwf, by rw [encode, hop, harg, opField_append_argField]⟩
  · rintro ⟨hwf, rfl⟩
    exact decodeWord_append_eq_ok.mpr ⟨hwf, rfl, rfl⟩

theorem decode_encode_cons {i : Instr} (hwf : WellFormed i = true) (rest : List CommandWord) :
    decode (encode i :: rest) = .ok (i, rest) := by
  simp only [decode, decodeWord_eq_ok.mpr ⟨hwf, rfl⟩]

/-- Each of the eight operation codes without an index is some command's, whose `arg` is 0 (R74, R75). -/
theorem exists_plain_of_op {op : BitVec 4} (h : op ∈ [0x0#4, 0x1#4, 0x3#4, 0x5#4, 0x7#4, 0x8#4, 0x9#4, 0xA#4]) :
    ∃ i, WellFormed i = true ∧ i.op = op ∧ i.arg = 0#4 := by
  simp only [List.mem_cons, List.not_mem_nil, or_false] at h
  rcases h with rfl | rfl | rfl | rfl | rfl | rfl | rfl | rfl
  exacts [⟨.rst, rfl, rfl, rfl⟩, ⟨.srate, rfl, rfl, rfl⟩, ⟨.latch, rfl, rfl, rfl⟩, ⟨.chp, rfl, rfl, rfl⟩, ⟨.enc, rfl, rfl, rfl⟩,
    ⟨.dec, rfl, rfl, rfl⟩, ⟨.sat, rfl, rfl, rfl⟩, ⟨.proc, rfl, rfl, rfl⟩]

/-- Settles O1, by induction on the commands: the first word decodes to the first command and leaves the others' words. -/
theorem encodedStreamDecodes : Obligations.EncodedStreamDecodes := by
  unfold Obligations.EncodedStreamDecodes
  intro is rest hwf
  induction is with
  | nil => rfl
  | cons i is ih =>
    obtain ⟨hi, his⟩ := List.forall_mem_cons.mp hwf
    simp only [List.length_cons, List.map_cons, List.cons_append, decodeMany, decode_encode_cons hi, ih his]

/-- Settles O2. -/
theorem decodedWordIsItsEncoding : Obligations.DecodedWordIsItsEncoding := fun _ _ => decodeWord_eq_ok.mp

/-- Settles O3: a word decodes when some well-formed command has its `op` and `arg`, and each command has one row of R75. -/
theorem argConstraintsHold : Obligations.ArgConstraintsHold := by
  unfold Obligations.ArgConstraintsHold
  intro op arg
  simp only [decodeWord_append_eq_ok]
  constructor
  · rintro ⟨i, hwf, rfl, rfl⟩
    cases i with
    | wrp p => exact .inr (.inl ⟨rfl, of_decide_eq_true hwf⟩)
    | cls k => exact .inr (.inr (.inl ⟨rfl, (shelfArgOk_iff k).mp hwf⟩))
    | bq k => exact .inr (.inr (.inr ⟨rfl, (stageArgOk_iff k).mp hwf⟩))
    | _ => exact .inl ⟨by decide, rfl⟩
  · rintro (⟨hop, rfl⟩ | ⟨rfl, hp⟩ | ⟨rfl, hk⟩ | ⟨rfl, hk⟩)
    · exact exists_plain_of_op hop
    · exact ⟨.wrp arg, decide_eq_true hp, rfl, rfl⟩
    · exact ⟨.cls arg, (shelfArgOk_iff arg).mpr hk, rfl, rfl⟩
    · exact ⟨.bq arg, (stageArgOk_iff arg).mpr hk, rfl, rfl⟩

/-- Settles O4: each word is the encoding of a well-formed command, and the legal words are counted. -/
theorem tableWordsDecode : Obligations.TableWordsDecode := by
  unfold Obligations.TableWordsDecode
  simp only [decodeWord_eq_ok]
  decide

/-- Settles O5, by reading the three lines. -/
theorem exampleLinesAssemble : Obligations.ExampleLinesAssemble := by
  unfold Obligations.ExampleLinesAssemble
  decide

end Sys2Proof
end

section
/-! PROOFS. What the ports answer to a transaction they do not run (30_encoding.md R77, R80; 60_exceptions.md R172, R182), and the steps
this makes. -/

namespace Sys2Proof.Machine

variable {F : Type} {run : Instr → State F → Out (State F)}

/-- R80, R77: a reserved word, and a `WRP`, on the command port. -/
theorem takeCommand_of_reserved {tx : CmdTx F} {s : State F} (hb : s.built = true)
    (h : ∀ i, decodeWord tx.cw = .ok i → i.agent = .ctl) : takeCommand run tx s = .refused .v5Reserved := by
  cases hd : decodeWord tx.cw with
  | error e => simp [takeCommand, hd, hb]
  | ok i => simp [takeCommand, hd, hb, h i hd]

/-- R77, R182: a command of `AUD` while another is in progress. -/
theorem takeCommand_of_running {tx : CmdTx F} {s : State F} {i : Instr} (hb : s.built = true) (hq : s.seq ≠ .idle)
    (hd : decodeWord tx.cw = .ok i) (ha : i.agent = .aud) : takeCommand run tx s = .refused .portBusy := by
  simp [takeCommand, hd, ha, hb, hq]

/-- R80, R77: a reserved word, and a command of `AUD`, on the parameter port. -/
theorem takeParam_of_reserved {tx : ParamTx F} {s : State F} (hb : s.built = true)
    (h : ∀ i, decodeWord tx.cw = .ok i → i.agent = .aud) : takeParam tx s = .refused .v5Reserved := by
  have hwrp : ∀ p, decodeWord tx.cw ≠ .ok (.wrp p) := fun p hp => nomatch h _ hp
  unfold takeParam
  rw [if_pos hb]
  split
  next p hp => exact absurd hp (hwrp p)
  next => rfl

variable [Inhabited F] [DecidableEq F]

/-- With nothing queued a step waits (70_reset_and_hazards.md R192; log 18). -/
theorem takeNext_of_no_input {s : State F} (ha : s.audIn = []) (hc : s.ctlIn = []) : takeNext run s = .next s := by
  simp only [takeNext, ha, hc]

end Sys2Proof.Machine

namespace Sys2Proof

open Machine

/-- Settles O37: with no write due the step takes the command, and the idle port runs it. -/
theorem stepRunsTheTakenCommand : Obligations.StepRunsTheTakenCommand := by
  unfold Obligations.StepRunsTheTakenCommand
  intro s tx rest i hbuilt hidle hdue haud hd ha
  calc step s = takeCommand exec tx (s.setAudIn rest) := takeNext_of_audIn hdue haud
    _ = exec i ((s.setAudIn rest).present tx) := takeCommand_of_idle hd ha hbuilt hidle

/-- Settles O39: the step takes the transaction, and its port has no meaning for the word. -/
theorem reservedUsesAreRefused : Obligations.ReservedUsesAreRefused := by
  unfold Obligations.ReservedUsesAreRefused
  refine ⟨fun s tx rest hbuilt hdue haud hd => ?_, fun s tx rest hbuilt hc hd => ?_⟩
  · calc step s = takeCommand exec tx (s.setAudIn rest) := takeNext_of_audIn hdue haud
      _ = .refused .v5Reserved := takeCommand_of_reserved hbuilt hd
  · calc step s = takeParam tx (s.setCtlIn rest) := takeNext_of_ctlIn hc (.inl rfl)
      _ = .refused .v5Reserved := takeParam_of_reserved hbuilt hd

/-- Settles O41: the step takes the command, which the busy port refuses; without an input it waits. -/
theorem portIsBusyOrIdle : Obligations.PortIsBusyOrIdle := by
  unfold Obligations.PortIsBusyOrIdle
  refine ⟨fun s tx rest i hbuilt hseq hdue haud hd ha => ?_, fun s => takeNext_of_no_input⟩
  calc step s = takeCommand exec tx (s.setAudIn rest) := takeNext_of_audIn hdue haud
    _ = .refused .portBusy := takeCommand_of_running hbuilt hseq hd ha

end Sys2Proof
end

section
/-! PROOFS. The command `BQ k` on the machine (40_biquad.md R101, R102): its meaning for a stage with written coefficients, and runs of it
on a sequence of samples, cut into calls. -/

namespace Sys2Proof.Machine

variable {F : Type} {N : Numerics F}

/-! One `BQ k` (R101). -/

theorem exec_bq (a : BitVec 4) (s : State) : exec (.bq a) s = execBqIn Config.num a s := rfl

/-- What `BQ k` leaves when stage `k` has the coefficients `c` and the sample `x` stands on the port. -/
def State.afterBq (N : Numerics F) (k : Fin 3) (c : Coef F) (x : F) (s : State F) : State F :=
  (({ s with opa := x } : State F).setZ k (biquadStep N c s.z[k] x).2).deliver (some (biquadStep N c s.z[k] x).1) none

theorem State.afterBq_rsa (k : Fin 3) (c : Coef F) (x : F) (s : State F) :
    (s.afterBq N k c x).rsa = some (biquadStep N c s.z[k] x).1 := rfl

theorem State.afterBq_z (k : Fin 3) (c : Coef F) (x : F) (s : State F) : (s.afterBq N k c x).z[k] = (biquadStep N c s.z[k] x).2 :=
  Vector.getElem_set_self k.isLt

theorem execBqIn_of_written {k : Fin 3} {s : State F} {c : Coef F} (hc : s.coef[k] = some c) (x : F) :
    execBqIn N (BitVec.ofNat 4 k.val) { s with opa := x } = .next (s.afterBq N k c x) :=
  execBqIn_eq_next.mpr ⟨k, c, stageIndex_ofNat k, hc, rfl⟩

/-- V3 (60_exceptions.md R172). -/
theorem execBqIn_of_unwritten {k : Fin 3} {s : State F} (hc : s.coef[k] = none) :
    execBqIn N (BitVec.ofNat 4 k.val) s = .refused .v3Unwritten := by
  simp only [execBqIn, stageIndex_ofNat, runStage, readCoef, hc, readWritten_none, andThen_refused]

/-- V5 (30_encoding.md R80). -/
theorem execBqIn_of_reserved {a : BitVec 4} (ha : stageArgOk a = false) (s : State F) : execBqIn N a s = .refused .v5Reserved := by
  simp only [execBqIn, stageIndex_eq_none.mpr ha]

/-- The word 0x60 + k (30_encoding.md R74). -/
theorem encode_bq (k : Fin 3) : encode (.bq (BitVec.ofNat 4 k.val)) = BitVec.ofNat 8 (0x60 + k.val) := by
  revert k; decide

theorem wellFormed_bq (k : Fin 3) : WellFormed (.bq (BitVec.ofNat 4 k.val)) = true := by
  revert k; decide

/-! Runs of `BQ k` (R102). The cut does not matter because one run after another is a run over both sequences. -/

theorem bqRun_append (a : BitVec 4) (xs ys : List Sample) (s : State) :
    bqRun a (xs ++ ys) s =
      andThen (bqRun a xs s) fun r => andThen (bqRun a ys r.2) fun q => .next (r.1 ++ q.1, q.2) := by
  induction xs generalizing s with
  | nil => exact (andThen_pure _).symm
  | cons x xs ih => simp only [List.cons_append, bqRun, ih, andThen_assoc, andThen_next]

theorem bqCalls_eq_bqRun_flatten (a : BitVec 4) (calls : List (List Sample)) (s : State) :
    bqCalls a calls s = bqRun a calls.flatten s := by
  induction calls generalizing s with
  | nil => rfl
  | cons c cs ih => simp only [bqCalls, List.flatten_cons, bqRun_append, ih]

/-- `s` with the ports that `BQ` touches as `t` has them: the operand and the two results (30_encoding.md R72, R73; log 9). -/
def State.withBqPorts (s t : State F) : State F := { s with opa := t.opa, rsa := t.rsa, rsb := t.rsb }

/-- A later `BQ k` overwrites what an earlier one left, on the ports and in `Z[k]`. -/
theorem State.afterBq_setZ_withBqPorts (k : Fin 3) (c : Coef F) (x : F) (s t : State F) (v : ZPair F) :
    ((s.afterBq N k c x).setZ k v).withBqPorts t = (s.setZ k v).withBqPorts t :=
  congrArg (fun z => ({ s with z := z } : State F).withBqPorts t) (Vector.set_set ..)

theorem State.setZ_self (s : State F) (k : Fin 3) : s.setZ k s.z[k] = s :=
  congrArg (fun z => { s with z := z }) (Vector.set_getElem_self k.isLt)

/-- A run of `BQ k` is the recurrence over its samples, from the old pair of stage `k` and on nothing else of the state. -/
theorem bqRun_of_written {k : Fin 3} {c : Coef Sample} (xs : List Sample) {s : State} (hc : s.coef[k] = some c) :
    ∃ t, bqRun (BitVec.ofNat 4 k.val) xs s = .next ((stageRun Config.num c xs s.z[k]).1.map some, t) ∧
      t = (s.setZ k (stageRun Config.num c xs s.z[k]).2).withBqPorts t := by
  induction xs generalizing s with
  | nil => exact ⟨s, rfl, (congrArg (State.withBqPorts · s) (s.setZ_self k)).symm⟩
  | cons x xs ih =>
    obtain ⟨t, hrun, ht⟩ := ih (s := s.afterBq Config.num k c x) hc
    rw [State.afterBq_z] at hrun ht
    refine ⟨t, ?_, ht.trans (State.afterBq_setZ_withBqPorts ..)⟩
    rw [bqRun, exec_bq, execBqIn_of_written hc, andThen_next, hrun, andThen_next, State.afterBq_rsa]
    rfl

end Sys2Proof.Machine

namespace Sys2Proof

open Machine

/-- Settles O17. -/
theorem bqRunsTheRecurrence : Obligations.BqRunsTheRecurrence := by
  unfold Obligations.BqRunsTheRecurrence
  refine ⟨fun s k c hc => ⟨decodeWord_eq_ok.mpr ⟨wellFormed_bq k, encode_bq k⟩, ?_⟩, fun s k hc => ?_, fun s a ha => ?_⟩
  · exact execBqIn_of_written hc s.opa
  · rw [exec_bq, execBqIn_of_unwritten hc]
  · rw [exec_bq, execBqIn_of_reserved (decide_eq_false (Nat.not_le.mpr ha))]

/-- Settles O34: the calls are one run over all their samples, and that run is the recurrence. -/
theorem stageRunSplitsAnywhere : Obligations.StageRunSplitsAnywhere := by
  unfold Obligations.StageRunSplitsAnywhere
  intro s k c calls hc
  obtain ⟨t, hrun, ht⟩ := bqRun_of_written calls.flatten hc
  exact ⟨t, (bqCalls_eq_bqRun_flatten _ calls s).trans hrun, hrun, ht⟩

end Sys2Proof
end

section
/-! PROOFS. A stage over the reals (40_biquad.md R103, R104): linear in its state and its input, and from zero state the filter of its
difference equation. -/

namespace Sys2Proof.Machine

/-- R101 with the members of `NUM_R` written out. -/
theorem biquadStep_real (c : Coef ℝ) (z : ZPair ℝ) (x : ℝ) :
    biquadStep Numerics.real c z x =
      (c.b0 * x + z.z1,
       ⟨z.z2 + c.b1 * x - c.a1 * (c.b0 * x + z.z1), c.b2 * x - c.a2 * (c.b0 * x + z.z1)⟩) := rfl

/-! Linearity (R104). -/

/-- The combination of two filter states with two factors. -/
def ZPair.combine (a b : ℝ) (z w : ZPair ℝ) : ZPair ℝ := ⟨a * z.z1 + b * w.z1, a * z.z2 + b * w.z2⟩

theorem biquadStep_combine (c : Coef ℝ) (a b : ℝ) (z w : ZPair ℝ) (x u : ℝ) :
    biquadStep Numerics.real c (.combine a b z w) (a * x + b * u) =
      (a * (biquadStep Numerics.real c z x).1 + b * (biquadStep Numerics.real c w u).1,
       .combine a b (biquadStep Numerics.real c z x).2 (biquadStep Numerics.real c w u).2) := by
  simp only [biquadStep_real, ZPair.combine, Prod.mk.injEq, ZPair.mk.injEq]
  refine ⟨?_, ?_, ?_⟩ <;> ring

theorem stageStateAt_combine (c : Coef ℝ) (z w : ZPair ℝ) (x u : ℕ → ℝ) (a b : ℝ) (n : ℕ) :
    stageStateAt Numerics.real c (.combine a b z w) (fun m => a * x m + b * u m) n =
      .combine a b (stageStateAt Numerics.real c z x n) (stageStateAt Numerics.real c w u n) := by
  induction n with
  | zero => rfl
  | succ n ih => simp only [stageStateAt, ih, biquadStep_combine]

theorem stageOutAt_combine (c : Coef ℝ) (z w : ZPair ℝ) (x u : ℕ → ℝ) (a b : ℝ) (n : ℕ) :
    stageOutAt Numerics.real c (.combine a b z w) (fun m => a * x m + b * u m) n =
      a * stageOutAt Numerics.real c z x n + b * stageOutAt Numerics.real c w u n := by
  simp only [stageOutAt, stageStateAt_combine, biquadStep_combine]

/-! The response from zero state (R103). -/

/-- The sample `k` before sample `n`, zero before the first. -/
def delayed (u : ℕ → ℝ) (k n : ℕ) : ℝ := if k ≤ n then u (n - k) else 0

theorem delayed_succ_zero (u : ℕ → ℝ) (k : ℕ) : delayed u (k + 1) 0 = 0 := if_neg (Nat.not_succ_le_zero k)

theorem delayed_succ (u : ℕ → ℝ) (k n : ℕ) : delayed u (k + 1) (n + 1) = delayed u k n := by
  simp only [delayed, Nat.succ_le_succ_iff, Nat.add_sub_add_right]

theorem delayed_zero (u : ℕ → ℝ) (n : ℕ) : delayed u 0 n = u n := if_pos n.zero_le

/-- A factor `z^-k` delays a sequence by `k` samples. -/
theorem coeff_mk_mul_X_pow (u : ℕ → ℝ) (k n : ℕ) :
    PowerSeries.coeff n (PowerSeries.mk u * PowerSeries.X ^ k) = delayed u k n := by
  rw [PowerSeries.coeff_mul_X_pow', PowerSeries.coeff_mk, delayed]

/-- The coefficients of a sequence times a polynomial of degree 2 in `z^-1`. -/
theorem coeff_mk_mul_quadratic (u : ℕ → ℝ) (p q r : ℝ) (n : ℕ) :
    PowerSeries.coeff n (PowerSeries.mk u *
        (PowerSeries.C p + PowerSeries.C q * PowerSeries.X + PowerSeries.C r * PowerSeries.X ^ 2)) =
      p * u n + q * delayed u 1 n + r * delayed u 2 n := by
  have hsplit : PowerSeries.mk u * (PowerSeries.C p + PowerSeries.C q * PowerSeries.X + PowerSeries.C r * PowerSeries.X ^ 2) =
      PowerSeries.C p * PowerSeries.mk u + PowerSeries.C q * (PowerSeries.mk u * PowerSeries.X ^ 1) +
        PowerSeries.C r * (PowerSeries.mk u * PowerSeries.X ^ 2) := by ring
  rw [hsplit, map_add, map_add, PowerSeries.coeff_C_mul, PowerSeries.coeff_C_mul, PowerSeries.coeff_C_mul, PowerSeries.coeff_mk,
    coeff_mk_mul_X_pow, coeff_mk_mul_X_pow]

/-- The state before sample `n` of a stage started from zero. -/
noncomputable abbrev zeroStateAt (c : Coef ℝ) (x : ℕ → ℝ) (n : ℕ) : ZPair ℝ := stageStateAt Numerics.real c ⟨0, 0⟩ x n

/-- The output at sample `n` of a stage started from zero. -/
noncomputable abbrev zeroStateOut (c : Coef ℝ) (x : ℕ → ℝ) (n : ℕ) : ℝ := stageOutAt Numerics.real c ⟨0, 0⟩ x n

theorem zeroStateOut_eq (c : Coef ℝ) (x : ℕ → ℝ) (n : ℕ) : zeroStateOut c x n = c.b0 * x n + (zeroStateAt c x n).z1 := rfl

theorem zeroStateAt_succ_z1_of_z2 (c : Coef ℝ) (x : ℕ → ℝ) (n : ℕ) :
    (zeroStateAt c x (n + 1)).z1 = (zeroStateAt c x n).z2 + c.b1 * x n - c.a1 * zeroStateOut c x n := rfl

theorem zeroStateAt_succ_z2 (c : Coef ℝ) (x : ℕ → ℝ) (n : ℕ) :
    (zeroStateAt c x (n + 1)).z2 = c.b2 * x n - c.a2 * zeroStateOut c x n := rfl

/-- `z2` in terms of the sample before. -/
theorem zeroStateAt_z2 (c : Coef ℝ) (x : ℕ → ℝ) (n : ℕ) :
    (zeroStateAt c x n).z2 = c.b2 * delayed x 1 n - c.a2 * delayed (zeroStateOut c x) 1 n := by
  cases n with
  | zero => simp [delayed_succ_zero, stageStateAt]
  | succ n => simp only [zeroStateAt_succ_z2, delayed_succ, delayed_zero]

theorem zeroStateAt_succ_z1 (c : Coef ℝ) (x : ℕ → ℝ) (n : ℕ) :
    (zeroStateAt c x (n + 1)).z1 =
      c.b1 * x n + c.b2 * delayed x 1 n - c.a1 * zeroStateOut c x n - c.a2 * delayed (zeroStateOut c x) 1 n := by
  rw [zeroStateAt_succ_z1_of_z2, zeroStateAt_z2]
  ring

/-- `z1` in terms of the two samples before. -/
theorem zeroStateAt_z1 (c : Coef ℝ) (x : ℕ → ℝ) (n : ℕ) :
    (zeroStateAt c x n).z1 =
      c.b1 * delayed x 1 n + c.b2 * delayed x 2 n - c.a1 * delayed (zeroStateOut c x) 1 n - c.a2 * delayed (zeroStateOut c x) 2 n := by
  cases n with
  | zero => simp [delayed_succ_zero, stageStateAt]
  | succ n => simp only [zeroStateAt_succ_z1, delayed_succ, delayed_zero]

/-- The difference equation. -/
theorem zeroStateOut_difference (c : Coef ℝ) (x : ℕ → ℝ) (n : ℕ) :
    zeroStateOut c x n =
      c.b0 * x n + c.b1 * delayed x 1 n + c.b2 * delayed x 2 n - c.a1 * delayed (zeroStateOut c x) 1 n -
        c.a2 * delayed (zeroStateOut c x) 2 n := by
  rw [zeroStateOut_eq, zeroStateAt_z1]
  ring

/-- The transfer function: the difference equation, coefficient by coefficient. -/
theorem zeroStateOut_transfer (c : Coef ℝ) (x : ℕ → ℝ) :
    PowerSeries.mk (zeroStateOut c x) * (1 + PowerSeries.C c.a1 * PowerSeries.X + PowerSeries.C c.a2 * PowerSeries.X ^ 2) =
      PowerSeries.mk x * (PowerSeries.C c.b0 + PowerSeries.C c.b1 * PowerSeries.X + PowerSeries.C c.b2 * PowerSeries.X ^ 2) := by
  ext n
  rw [← map_one PowerSeries.C, coeff_mk_mul_quadratic, coeff_mk_mul_quadratic]
  linear_combination zeroStateOut_difference c x n

end Sys2Proof.Machine

namespace Sys2Proof

open Machine

/-- Settles O53. -/
theorem stageRealisesItsTransferFunction : Obligations.StageRealisesItsTransferFunction := by
  unfold Obligations.StageRealisesItsTransferFunction
  intro c x
  have hfirst : zeroStateOut c x 0 = c.b0 * x 0 := (zeroStateOut_eq c x 0).trans (add_zero _)
  exact ⟨zeroStateOut_difference c x, fun n => ⟨zeroStateAt_succ_z1 c x n, zeroStateAt_succ_z2 c x n⟩, hfirst,
    zeroStateOut_transfer c x⟩

/-- Settles O54: one step of the recurrence is linear, so by induction every state is, and with it every output. -/
theorem stageIsLinear : Obligations.StageIsLinear := by
  unfold Obligations.StageIsLinear
  intro c z w x u a b n
  exact ⟨stageOutAt_combine c z w x u a b n, stageStateAt_combine c z w x u a b n⟩

end Sys2Proof
end

section
/-! PROOFS. The commands of the coefficient calculators on the machine (41_shelving_coef.md R111, R112; 42_highpass_coef.md R121): what they
answer when the registers they read are written, when one is not, and on an index that no shelf has. -/

namespace Sys2Proof.Machine

variable {F : Type} {N : Numerics F}

/-! A calculator tests its registers first and the cutoff after them. -/

theorem calcShelf_of_written {k : Shelf} {s : State F} {fs G f : F} (hfs : s.fs = some fs) (hG : s.act[shelfGain k] = some G)
    (hf : s.act[shelfFreq k] = some f) :
    calcShelf N k s =
      if cutoffOk N f fs then .next (s.setCoef (shelfStage k) (some (shelfCoef N G f fs))) else .refused .v1Cutoff := by
  simp only [calcShelf, readFs, readAct, hfs, hG, hf, readWritten_some, andThen_next]

theorem calcHighPass_of_written {s : State F} {fs f : F} (hfs : s.fs = some fs) (hf : s.act[highPassFreq] = some f) :
    calcHighPass N s = if cutoffOk N f fs then .next (s.setCoef 1 (some (highPassCoef N f fs))) else .refused .v1Cutoff := by
  simp only [calcHighPass, readFs, readAct, hfs, hf, readWritten_some, andThen_next]

/-- V3: in the order of the reads, the first register that holds `⊥` refuses. -/
theorem calcShelf_of_unwritten {k : Shelf} {s : State F} (h : s.fs = none ∨ s.act[shelfGain k] = none ∨ s.act[shelfFreq k] = none) :
    calcShelf N k s = .refused .v3Unwritten := by
  simp only [calcShelf, readFs, readAct]
  cases hfs : s.fs with
  | none => rfl
  | some fs =>
    cases hG : s.act[shelfGain k] with
    | none => rfl
    | some G =>
      have hf : s.act[shelfFreq k] = none := by simpa [hfs, hG] using h
      simp only [hf, readWritten_some, readWritten_none, andThen_next, andThen_refused]

/-- V3 likewise. -/
theorem calcHighPass_of_unwritten {s : State F} (h : s.fs = none ∨ s.act[highPassFreq] = none) :
    calcHighPass N s = .refused .v3Unwritten := by
  simp only [calcHighPass, readFs, readAct]
  cases hfs : s.fs with
  | none => rfl
  | some fs =>
    have hf : s.act[highPassFreq] = none := by simpa [hfs] using h
    simp only [hf, readWritten_some, readWritten_none, andThen_next, andThen_refused]

/-! The index of `CLS` (30_encoding.md R75, R80) and the registers it selects (10_state.md R22, R25). -/

theorem shelfIndex_shelfStage (k : Shelf) : shelfIndex (BitVec.ofNat 4 (shelfStage k).val) = some k := by
  cases k <;> rfl

theorem execClsIn_shelfStage (k : Shelf) (s : State F) : execClsIn N (BitVec.ofNat 4 (shelfStage k).val) s = calcShelf N k s := by
  simp only [execClsIn, shelfIndex_shelfStage]

/-- V5. -/
theorem execClsIn_of_reserved {a : BitVec 4} (ha : shelfArgOk a = false) (s : State F) : execClsIn N a s = .refused .v5Reserved := by
  simp only [execClsIn, shelfIndex_eq_none.mpr ha]

theorem shelfFreq_side : shelfFreq .side = if Config.sideFreqAssign = .lowerToHp then 4 else 3 := by
  unfold shelfFreq
  cases Config.sideFreqAssign <;> rfl

/-- A stage with the gain and the cutoff that R22 and R25 give it is one of the two shelves with its own registers. -/
theorem exists_shelf_of_registers {k : Fin 3} {gi fi : Fin 11}
    (h : (k = 0 ∧ gi = 0 ∧ fi = 1) ∨ (k = 2 ∧ gi = 2 ∧ fi = if Config.sideFreqAssign = .lowerToHp then 4 else 3)) :
    ∃ sh, k = shelfStage sh ∧ gi = shelfGain sh ∧ fi = shelfFreq sh := by
  rcases h with ⟨rfl, rfl, rfl⟩ | ⟨rfl, rfl, rfl⟩
  · exact ⟨.mid, rfl, rfl, rfl⟩
  · exact ⟨.side, rfl, rfl, shelfFreq_side.symm⟩

/-- The three tests of a calculator's precondition. -/
theorem cutoffOk_eq_true_iff {f fs : F} :
    cutoffOk N f fs = true ↔
      N.lt (N.lit 0) f = true ∧ N.lt f (N.div fs (N.lit 2)) = true ∧ N.lt (N.lit 0) fs = true := by
  simp only [cutoffOk, Bool.and_eq_true, and_assoc]

end Sys2Proof.Machine

namespace Sys2Proof

open Machine

/-- Settles O14: the stage is one of the two shelves, and `CLS` of a shelf stores its six values. -/
theorem clsWritesShelfCoefficients : Obligations.ClsWritesShelfCoefficients := by
  refine InAnyNumerics.intro fun F _ _ N => ⟨by decide, by decide, fun s k gi fi fs G f hreg hfs hG hf h0 h2 hrate => ?_⟩
  obtain ⟨sh, rfl, rfl, rfl⟩ := exists_shelf_of_registers hreg
  have hok : cutoffOk N f fs = true := cutoffOk_eq_true_iff.mpr ⟨h0, h2, hrate⟩
  exact (execClsIn_shelfStage sh s).trans (calcShelf_eq_next.mpr ⟨fs, G, f, hfs, hG, hf, hok, rfl⟩)

/-- Settles O16: each refusal of the two calculators, and of an index that is no shelf's. -/
theorem calculatorsRefuse : Obligations.CalculatorsRefuse := by
  refine InAnyNumerics.intro fun F _ _ N =>
    ⟨fun s k h => ?_, fun s k fs G f hfs hG hf hok => ?_, fun s a h0 h2 => ?_, fun s h => ?_, fun s fs f hfs hf hok => ?_⟩
  · exact (execClsIn_shelfStage k s).trans (calcShelf_of_unwritten h)
  · exact (execClsIn_shelfStage k s).trans ((calcShelf_of_written hfs hG hf).trans (by simp only [hok, Bool.false_eq_true, if_false]))
  · have ha : shelfArgOk a = false := Bool.eq_false_iff.mpr fun h => ((shelfArgOk_iff a).mp h).elim h0 h2
    exact execClsIn_of_reserved ha s
  · exact calcHighPass_of_unwritten h
  · exact (calcHighPass_of_written hfs hf).trans (by simp only [hok, Bool.false_eq_true, if_false])

end Sys2Proof
end

section
/-! PROOFS. The low shelf over the reals (41_shelving_coef.md R111 to R115): its raw values as formulas in the amplitude, `cos w0` and `alpha`,
and what they say of the denominator, the gains at the two ends of the spectrum and the shelf at 0 dB. -/

namespace Sys2Proof.Machine

/-! The quantities of R111 in `NUM_R`. -/

theorem shelfAmplitude_real (G : ℝ) : shelfAmplitude Numerics.real G = 10 ^ (G / 40) := by
  simp [shelfAmplitude, Numerics.real]

theorem omega_real (f fs : ℝ) : omega Numerics.real f fs = 2 * Real.pi * f / fs := by
  simp [omega, Numerics.real]

theorem alphaOf_real (w0 : ℝ) : alphaOf Numerics.real w0 = Real.sin w0 / (2 * (1 / Real.sqrt 2)) := by
  simp [alphaOf, Numerics.real]

theorem shelfAmplitude_real_pos (G : ℝ) : 0 < shelfAmplitude Numerics.real G := by
  rw [shelfAmplitude_real]
  positivity

/-- Two half amplitudes of `10^(G/40)` make the gain of `G` decibels. -/
theorem shelfAmplitude_real_mul_self (G : ℝ) : shelfAmplitude Numerics.real G * shelfAmplitude Numerics.real G = 10 ^ (G / 20) := by
  rw [shelfAmplitude_real, ← Real.rpow_add (by norm_num)]
  ring_nf

@[simp] theorem shelfAmplitude_real_zero : shelfAmplitude Numerics.real 0 = 1 := by
  rw [shelfAmplitude_real, zero_div, Real.rpow_zero]

/-! A legal cutoff (R111) lies strictly between the two ends of the spectrum. -/

section LegalCutoff

variable {f fs : ℝ} (hfs : 0 < fs) (hf : 0 < f) (hhalf : f < fs / 2)
include hfs hf hhalf

theorem omega_real_mem_Ioo : omega Numerics.real f fs ∈ Set.Ioo 0 Real.pi := by
  rw [omega_real, Set.mem_Ioo, div_lt_iff₀ hfs]
  refine ⟨by positivity, ?_⟩
  calc 2 * Real.pi * f < 2 * Real.pi * (fs / 2) := by gcongr
    _ = Real.pi * fs := by ring

theorem sin_omega_pos : 0 < Real.sin (omega Numerics.real f fs) :=
  Real.sin_pos_of_mem_Ioo (omega_real_mem_Ioo hfs hf hhalf)

theorem abs_cos_omega_lt_one : |Real.cos (omega Numerics.real f fs)| < 1 := by
  have hsin := sin_omega_pos hfs hf hhalf
  rw [← sq_lt_one_iff_abs_lt_one, Real.cos_sq']
  exact sub_lt_self 1 (by positivity)

theorem alphaOf_omega_pos : 0 < alphaOf Numerics.real (omega Numerics.real f fs) := by
  have hsin := sin_omega_pos hfs hf hhalf
  rw [alphaOf_real]
  positivity

end LegalCutoff

/-! The raw values (R111, R113 to R115). -/

/-- The document's six formulas in the amplitude `A`, `c = cos w0` and `alpha`. -/
noncomputable def lowShelf (A c α : ℝ) : Coef ℝ where
  b0 := A * ((A + 1) - (A - 1) * c + 2 * Real.sqrt A * α)
  b1 := 2 * A * ((A - 1) - (A + 1) * c)
  b2 := A * ((A + 1) - (A - 1) * c - 2 * Real.sqrt A * α)
  a0 := (A + 1) + (A - 1) * c + 2 * Real.sqrt A * α
  a1 := -2 * ((A - 1) + (A + 1) * c)
  a2 := (A + 1) + (A - 1) * c - 2 * Real.sqrt A * α

theorem shelfRaw_real (G f fs : ℝ) :
    shelfRaw Numerics.real G f fs =
      lowShelf (shelfAmplitude Numerics.real G) (Real.cos (omega Numerics.real f fs)) (alphaOf Numerics.real (omega Numerics.real f fs)) := by
  simp [shelfRaw, lowShelf, Numerics.real]

/-- R114: the raw `a0` is `A * (1 + cos w0) + (1 - cos w0) + 2 * sqrt A * alpha`, a sum of positive terms. -/
theorem lowShelf_a0_pos {A c α : ℝ} (hA : 0 < A) (hc : |c| < 1) (hα : 0 < α) : 0 < (lowShelf A c α).a0 := by
  obtain ⟨hlo, hhi⟩ := abs_lt.mp hc
  have hlow : 0 < A * (1 + c) := mul_pos hA (by linarith)
  have hroot : 0 < 2 * Real.sqrt A * α := by positivity
  calc 0 < A * (1 + c) + (1 - c) + 2 * Real.sqrt A * α := by linarith
    _ = (lowShelf A c α).a0 := by unfold lowShelf; ring

/-- R115: the sums and the alternating sums of the two sides. -/
theorem lowShelf_sums (A c α : ℝ) :
    (lowShelf A c α).b0 + (lowShelf A c α).b1 + (lowShelf A c α).b2 = 4 * A * A * (1 - c) ∧
    (lowShelf A c α).a0 + (lowShelf A c α).a1 + (lowShelf A c α).a2 = 4 * (1 - c) ∧
    (lowShelf A c α).b0 - (lowShelf A c α).b1 + (lowShelf A c α).b2 = 4 * A * (1 + c) ∧
    (lowShelf A c α).a0 - (lowShelf A c α).a1 + (lowShelf A c α).a2 = 4 * A * (1 + c) := by
  unfold lowShelf
  refine ⟨?_, ?_, ?_, ?_⟩ <;> ring

/-- R113: with the amplitude 1 of 0 dB the numerator is the denominator. -/
theorem lowShelf_unity (c α : ℝ) :
    lowShelf 1 c α = { b0 := 2 + 2 * α, b1 := -4 * c, b2 := 2 - 2 * α, a0 := 2 + 2 * α, a1 := -4 * c, a2 := 2 - 2 * α } := by
  simp only [lowShelf, Real.sqrt_one, Coef.mk.injEq]
  refine ⟨?_, ?_, ?_, ?_, ?_, ?_⟩ <;> ring

/-- R113 for the calculator: 0 dB is the amplitude 1. -/
theorem shelfRaw_real_zero (f fs : ℝ) :
    shelfRaw Numerics.real 0 f fs =
      { b0 := 2 + 2 * alphaOf Numerics.real (omega Numerics.real f fs), b1 := -4 * Real.cos (omega Numerics.real f fs)
        b2 := 2 - 2 * alphaOf Numerics.real (omega Numerics.real f fs)
        a0 := 2 + 2 * alphaOf Numerics.real (omega Numerics.real f fs), a1 := -4 * Real.cos (omega Numerics.real f fs)
        a2 := 2 - 2 * alphaOf Numerics.real (omega Numerics.real f fs) } := by
  rw [shelfRaw_real, shelfAmplitude_real_zero, lowShelf_unity]

/-- R114 for the calculator. -/
theorem shelfRaw_real_a0_pos (G : ℝ) {f fs : ℝ} (hfs : 0 < fs) (hf : 0 < f) (hhalf : f < fs / 2) :
    0 < (shelfRaw Numerics.real G f fs).a0 := by
  rw [shelfRaw_real]
  exact lowShelf_a0_pos (shelfAmplitude_real_pos G) (abs_cos_omega_lt_one hfs hf hhalf) (alphaOf_omega_pos hfs hf hhalf)

/-! The stored values (R112). -/

theorem normalise_real (r : Coef ℝ) :
    normalise Numerics.real r =
      { b0 := r.b0 / r.a0, b1 := r.b1 / r.a0, b2 := r.b2 / r.a0, a0 := r.a0 / r.a0, a1 := r.a1 / r.a0, a2 := r.a2 / r.a0 } := rfl

theorem normalise_real_a0 {r : Coef ℝ} (h : r.a0 ≠ 0) : (normalise Numerics.real r).a0 = 1 := div_self h

/-- Normalising keeps the transfer function, here at the value `e` of `z^-1`. -/
theorem normalise_real_response {r : Coef ℝ} (h : r.a0 ≠ 0) (e : ℝ) :
    ((normalise Numerics.real r).b0 + (normalise Numerics.real r).b1 * e + (normalise Numerics.real r).b2 * e ^ 2) /
        (1 + (normalise Numerics.real r).a1 * e + (normalise Numerics.real r).a2 * e ^ 2) =
      (r.b0 + r.b1 * e + r.b2 * e ^ 2) / (r.a0 + r.a1 * e + r.a2 * e ^ 2) := by
  rw [normalise_real, ← mul_div_mul_left _ _ h]
  congr 1 <;> field_simp

/-- The response at zero frequency, `z = 1`. -/
theorem normalise_real_response_one {r : Coef ℝ} (h : r.a0 ≠ 0) :
    ((normalise Numerics.real r).b0 + (normalise Numerics.real r).b1 + (normalise Numerics.real r).b2) /
        (1 + (normalise Numerics.real r).a1 + (normalise Numerics.real r).a2) = (r.b0 + r.b1 + r.b2) / (r.a0 + r.a1 + r.a2) := by
  simpa using normalise_real_response h 1

/-- The response at half the sample rate, `z = -1`. -/
theorem normalise_real_response_neg_one {r : Coef ℝ} (h : r.a0 ≠ 0) :
    ((normalise Numerics.real r).b0 - (normalise Numerics.real r).b1 + (normalise Numerics.real r).b2) /
        (1 - (normalise Numerics.real r).a1 + (normalise Numerics.real r).a2) = (r.b0 - r.b1 + r.b2) / (r.a0 - r.a1 + r.a2) := by
  simpa [sub_eq_add_neg] using normalise_real_response h (-1)

/-- A stage whose numerator is its denominator passes every sample on: what a sample puts into the state, the output takes out. -/
theorem stageRun_real_identity {c : Coef ℝ} (h0 : c.b0 = 1) (h1 : c.b1 = c.a1) (h2 : c.b2 = c.a2) (xs : List ℝ) :
    stageRun Numerics.real c xs ⟨0, 0⟩ = (xs, ⟨0, 0⟩) := by
  induction xs with
  | nil => rfl
  | cons x xs ih =>
    have hstep : biquadStep Numerics.real c ⟨0, 0⟩ x = (x, ⟨0, 0⟩) := by simp [biquadStep_real, h0, h1, h2]
    simp only [stageRun, hstep, ih]

end Sys2Proof.Machine

namespace Sys2Proof

open Machine

/-- Settles O46: a legal cutoff keeps `cos w0` inside (-1, 1) and `alpha` above 0, and the amplitude is a power of 10. -/
theorem shelfDenominatorIsPositive : Obligations.ShelfDenominatorIsPositive :=
  fun G _ _ hfs hf hhalf => shelfRaw_real_a0_pos G hfs hf hhalf

/-- Settles O47: normalising keeps both gains, which are quotients of the sums of the raw values. -/
theorem shelfGainsAtTheEnds : Obligations.ShelfGainsAtTheEnds := by
  unfold Obligations.ShelfGainsAtTheEnds
  intro G f fs hfs hf hhalf A w0 r c
  obtain ⟨hlo, hhi⟩ := abs_lt.mp (abs_cos_omega_lt_one hfs hf hhalf)
  have hA : 0 < A := shelfAmplitude_real_pos G
  have ha0 : r.a0 ≠ 0 := (shelfRaw_real_a0_pos G hfs hf hhalf).ne'
  have hdc : 1 - Real.cos w0 ≠ 0 := (sub_pos.mpr hhi).ne'
  have hny : 4 * A * (1 + Real.cos w0) ≠ 0 := (mul_pos (by positivity) (by linarith)).ne'
  have hr : r = lowShelf A (Real.cos w0) (alphaOf Numerics.real w0) := shelfRaw_real G f fs
  obtain ⟨hb, ha, hb', ha'⟩ := hr ▸ lowShelf_sums A (Real.cos w0) (alphaOf Numerics.real w0)
  refine ⟨hb, ha, hb', ha', (normalise_real_response_one ha0).trans ?_, shelfAmplitude_real_mul_self G,
    (normalise_real_response_neg_one ha0).trans ?_⟩
  · rw [hb, ha]
    field_simp
  · rw [hb', ha', div_self hny]

/-- Settles O48: at 0 dB the amplitude is 1, so the raw numerator is the raw denominator, and normalising keeps them equal. -/
theorem unityShelfIsTheIdentity : Obligations.UnityShelfIsTheIdentity := by
  unfold Obligations.UnityShelfIsTheIdentity
  intro f fs hfs hf hhalf w0 α r c
  have hr : r = ⟨2 + 2 * α, -4 * Real.cos w0, 2 - 2 * α, 2 + 2 * α, -4 * Real.cos w0, 2 - 2 * α⟩ := shelfRaw_real_zero f fs
  have ha0 : r.a0 ≠ 0 := (shelfRaw_real_a0_pos 0 hfs hf hhalf).ne'
  have hnum0 : r.b0 = r.a0 := by rw [hr]
  have hnum1 : r.b1 = r.a1 := by rw [hr]
  have hnum2 : r.b2 = r.a2 := by rw [hr]
  have hb0 : c.b0 = 1 := (congrArg (· / r.a0) hnum0).trans (div_self ha0)
  have hb1 : c.b1 = c.a1 := congrArg (· / r.a0) hnum1
  have hb2 : c.b2 = c.a2 := congrArg (· / r.a0) hnum2
  exact ⟨shelfAmplitude_real_zero, congrArg Coef.b0 hr, congrArg Coef.a0 hr, congrArg Coef.b1 hr, congrArg Coef.a1 hr, congrArg Coef.b2 hr,
    congrArg Coef.a2 hr, normalise_real_a0 ha0, hb0, hb1, hb2, stageRun_real_identity hb0 hb1 hb2⟩

/-- Settles O45: the formulas are those of `lowShelf`, with the three quantities of R111 written out. -/
theorem shelfFormulasOverReals : Obligations.ShelfFormulasOverReals := by
  unfold Obligations.ShelfFormulasOverReals
  intro G f fs A w0 α
  rw [shelfRaw_real, shelfAmplitude_real, alphaOf_real, omega_real]
  rfl

end Sys2Proof
end

section
/-! PROOFS. The high-pass calculator (42_highpass_coef.md R121 to R124): what `CHP` stores, its values over the reals as formulas in `cos w0`
and `alpha`, the denominator, the gains at the two ends of the spectrum, and both calculators at a quarter of the sample rate. -/

namespace Sys2Proof.Machine

theorem highPassFreq_eq : highPassFreq = if Config.sideFreqAssign = .lowerToHp then 3 else 4 := by
  unfold highPassFreq
  cases Config.sideFreqAssign <;> rfl

/-! The raw values (R121). -/

/-- The document's six formulas in `c = cos w0` and `alpha`. -/
noncomputable def highPass (c α : ℝ) : Coef ℝ where
  b0 := (1 + c) / 2
  b1 := -(1 + c)
  b2 := (1 + c) / 2
  a0 := 1 + α
  a1 := -2 * c
  a2 := 1 - α

theorem highPassRaw_real (f fs : ℝ) :
    highPassRaw Numerics.real f fs =
      highPass (Real.cos (omega Numerics.real f fs)) (alphaOf Numerics.real (omega Numerics.real f fs)) := by
  simp [highPassRaw, highPass, Numerics.real]

/-- R123 for the calculator: `alpha` is above 0. -/
theorem one_lt_highPassRaw_real_a0 {f fs : ℝ} (hfs : 0 < fs) (hf : 0 < f) (hhalf : f < fs / 2) :
    1 < (highPassRaw Numerics.real f fs).a0 := by
  rw [highPassRaw_real]
  exact lt_add_of_pos_right 1 (alphaOf_omega_pos hfs hf hhalf)

theorem highPassRaw_real_a0_ne_zero {f fs : ℝ} (hfs : 0 < fs) (hf : 0 < f) (hhalf : f < fs / 2) :
    (highPassRaw Numerics.real f fs).a0 ≠ 0 :=
  (zero_lt_one.trans (one_lt_highPassRaw_real_a0 hfs hf hhalf)).ne'

/-- R124: the sum of the numerator and the alternating sums of both sides. -/
theorem highPass_sums (c α : ℝ) :
    (highPass c α).b0 + (highPass c α).b1 + (highPass c α).b2 = 0 ∧
    (highPass c α).b0 - (highPass c α).b1 + (highPass c α).b2 = 2 * (1 + c) ∧
    (highPass c α).a0 - (highPass c α).a1 + (highPass c α).a2 = 2 * (1 + c) := by
  unfold highPass
  refine ⟨?_, ?_, ?_⟩ <;> ring

/-- R121, corner case a, which normalising keeps. -/
theorem highPassCoef_real_b1 (f fs : ℝ) :
    (highPassCoef Numerics.real f fs).b1 = -2 * (highPassCoef Numerics.real f fs).b0 := by
  simp only [highPassCoef, highPassRaw_real, normalise_real, highPass]
  ring

theorem highPassCoef_real_b2 (f fs : ℝ) : (highPassCoef Numerics.real f fs).b2 = (highPassCoef Numerics.real f fs).b0 := rfl

/-! A quarter of the sample rate (R111 and R121, corner cases b). -/

theorem omega_real_quarter {fs : ℝ} (hfs : 0 < fs) : omega Numerics.real (fs / 4) fs = Real.pi / 2 := by
  rw [omega_real]
  field_simp
  norm_num

theorem alphaOf_real_pi_div_two : alphaOf Numerics.real (Real.pi / 2) = Real.sqrt 2 / 2 := by
  rw [alphaOf_real, Real.sin_pi_div_two]
  field_simp

/-- The quotients by `1 + sqrt 2 / 2`, rationalised by `sqrt 2 * sqrt 2 = 2`. -/
theorem normalise_highPass_quarter :
    normalise Numerics.real (highPass 0 (Real.sqrt 2 / 2)) =
      { b0 := 1 - Real.sqrt 2 / 2, b1 := -(2 - Real.sqrt 2), b2 := 1 - Real.sqrt 2 / 2, a0 := 1, a1 := 0, a2 := 3 - 2 * Real.sqrt 2 } := by
  have hsq : Real.sqrt 2 * Real.sqrt 2 = 2 := Real.mul_self_sqrt zero_le_two
  have ha0 : 1 + Real.sqrt 2 / 2 ≠ 0 := by positivity
  have hb0 : (1 + 0) / 2 / (1 + Real.sqrt 2 / 2) = 1 - Real.sqrt 2 / 2 := by
    rw [div_eq_iff ha0]
    linear_combination hsq / 4
  have hb1 : -(1 + 0) / (1 + Real.sqrt 2 / 2) = -(2 - Real.sqrt 2) := by
    rw [div_eq_iff ha0]
    linear_combination -hsq / 2
  have ha2 : (1 - Real.sqrt 2 / 2) / (1 + Real.sqrt 2 / 2) = 3 - 2 * Real.sqrt 2 := by
    rw [div_eq_iff ha0]
    linear_combination hsq
  simp only [normalise_real, highPass, hb0, hb1, ha2, div_self ha0, mul_zero, zero_div]

/-- With `cos w0 = 0` the shelf's raw `b0` is `A` times its raw `a0`. -/
theorem lowShelf_b0_of_cos_zero (A α : ℝ) : (lowShelf A 0 α).b0 = A * (lowShelf A 0 α).a0 := by
  simp only [lowShelf, mul_zero, sub_zero, add_zero]

end Sys2Proof.Machine

namespace Sys2Proof

open Machine

/-- Settles O49: a legal cutoff keeps `alpha` above 0. -/
theorem highPassDenominatorExceedsOne : Obligations.HighPassDenominatorExceedsOne := by
  unfold Obligations.HighPassDenominatorExceedsOne
  intro f fs hfs hf hhalf
  exact ⟨congrArg Coef.a0 (highPassRaw_real f fs), one_lt_highPassRaw_real_a0 hfs hf hhalf,
    normalise_real_a0 (highPassRaw_real_a0_ne_zero hfs hf hhalf)⟩

/-- Settles O50: normalising keeps both gains, which are quotients of the sums of the raw values. -/
theorem highPassGainsAtTheEnds : Obligations.HighPassGainsAtTheEnds := by
  unfold Obligations.HighPassGainsAtTheEnds
  intro f fs hfs hf hhalf r c
  let w0 := omega Numerics.real f fs
  have ha0 : r.a0 ≠ 0 := highPassRaw_real_a0_ne_zero hfs hf hhalf
  have hr : r = highPass (Real.cos w0) (alphaOf Numerics.real w0) := highPassRaw_real f fs
  obtain ⟨hb, hb', ha'⟩ := hr ▸ highPass_sums (Real.cos w0) (alphaOf Numerics.real w0)
  have hlo : -1 < Real.cos w0 := (abs_lt.mp (abs_cos_omega_lt_one hfs hf hhalf)).1
  have hny : 2 * (1 + Real.cos w0) ≠ 0 := (mul_pos two_pos (by linarith)).ne'
  have hdcGain : (c.b0 + c.b1 + c.b2) / (1 + c.a1 + c.a2) = 0 :=
    (normalise_real_response_one ha0).trans (by rw [hb, zero_div])
  have hnyGain : (c.b0 - c.b1 + c.b2) / (1 - c.a1 + c.a2) = 1 :=
    (normalise_real_response_neg_one ha0).trans (by rw [hb', ha', div_self hny])
  have hlower : |(c.b0 + c.b1 + c.b2) / (1 + c.a1 + c.a2)| < |(c.b0 - c.b1 + c.b2) / (1 - c.a1 + c.a2)| := by
    rw [hdcGain, hnyGain, abs_zero, abs_one]
    exact zero_lt_one
  exact ⟨hb, hb', ha', hdcGain, hnyGain, hlower, highPassCoef_real_b1 f fs, highPassCoef_real_b2 f fs⟩

/-- Settles O51: at a quarter of the rate `w0` is `pi / 2`, so `cos w0 = 0` and `alpha = sqrt 2 / 2`. -/
theorem quarterRateCoefficients : Obligations.QuarterRateCoefficients := by
  unfold Obligations.QuarterRateCoefficients
  intro fs hfs
  refine ⟨?_, fun G => ?_⟩
  · rw [highPassCoef, highPassRaw_real, omega_real_quarter hfs, Real.cos_pi_div_two, alphaOf_real_pi_div_two, normalise_highPass_quarter]
  · have ha0 := (shelfRaw_real_a0_pos G hfs (by positivity : 0 < fs / 4) (by linarith)).ne'
    rw [shelfRaw_real, omega_real_quarter hfs, Real.cos_pi_div_two] at ha0
    rw [shelfCoef, normalise_real, shelfRaw_real, omega_real_quarter hfs, Real.cos_pi_div_two, lowShelf_b0_of_cos_zero,
      mul_div_cancel_right₀ _ ha0]

/-- Settles O15: with its registers written and a legal cutoff, `CHP` stores the six values. -/
theorem chpWritesHighPassCoefficients : Obligations.ChpWritesHighPassCoefficients := by
  refine InAnyNumerics.intro fun F _ _ N => ⟨by decide, fun s fi fs f hfi hfs hf h0 h2 hrate => ?_⟩
  obtain rfl : fi = highPassFreq := hfi.trans highPassFreq_eq.symm
  have hok : cutoffOk N f fs = true := cutoffOk_eq_true_iff.mpr ⟨h0, h2, hrate⟩
  exact calcHighPass_eq_next.mpr ⟨fs, f, hfs, hf, hok, rfl⟩

end Sys2Proof
end

section
/-! PROOFS. The mid/side codec (43_midside.md R131 to R135): the commands `ENC` and `DEC` on the machine, and the codec over the reals as a
pair of matrices whose product is the make-up gain. -/

namespace Sys2Proof.Machine

variable {F : Type} {N : Numerics F}

/-! The commands (R131, R133). -/

theorem exec_enc (s : State) : exec .enc s = execEncIn Config.num s := rfl

theorem exec_dec (s : State) : exec .dec s = execDecIn Config.num s := rfl

theorem execEncIn_eq (s : State F) :
    execEncIn N s = .next (s.deliver (some (midSideEncode N s.opa s.opb).1) (some (midSideEncode N s.opa s.opb).2)) := rfl

theorem execDecIn_of_written {s : State F} {dB : F} (h : s.act[10] = some dB) :
    execDecIn N s = .next (s.deliver (some (midSideDecode N dB s.opa s.opb).1) (some (midSideDecode N dB s.opa s.opb).2)) :=
  execDecIn_eq_next.mpr ⟨dB, h, rfl⟩

/-- V3: the make-up gain is read before anything is computed. -/
theorem decodeFrame_of_unwritten {m d : F} {s : State F} (h : s.act[10] = none) : decodeFrame N m d s = .refused .v3Unwritten :=
  andThen_eq_refused.mpr (.inl (readWritten_eq_refused.mpr ⟨h, rfl⟩))

theorem execDecIn_of_unwritten {s : State F} (h : s.act[10] = none) : execDecIn N s = .refused .v3Unwritten :=
  andThen_eq_refused.mpr (.inl (decodeFrame_of_unwritten h))

/-! The codec in `NUM_R` (R134, R135). -/

theorem makeUpGain_real (dB : ℝ) : makeUpGain Numerics.real dB = 10 ^ (dB / 20) := by
  simp [makeUpGain, Numerics.real]

theorem makeUpGain_real_pos (dB : ℝ) : 0 < makeUpGain Numerics.real dB := by
  rw [makeUpGain_real]
  positivity

@[simp] theorem makeUpGain_real_zero : makeUpGain Numerics.real 0 = 1 := by
  rw [makeUpGain_real, zero_div, Real.rpow_zero]

theorem midSideEncode_real (L R : ℝ) : midSideEncode Numerics.real L R = ((L + R) / 2, (L - R) / 2) := by
  simp [midSideEncode, Numerics.real]

theorem midSideDecode_real (dB m d : ℝ) :
    midSideDecode Numerics.real dB m d = ((m + d) * makeUpGain Numerics.real dB, (m - d) * makeUpGain Numerics.real dB) := rfl

/-- R135: mid and side add up to `L` and differ by `R`, so the product of the two matrices is the gain times the identity. -/
theorem midSideDecode_midSideEncode_real (dB L R : ℝ) :
    midSideDecode Numerics.real dB (midSideEncode Numerics.real L R).1 (midSideEncode Numerics.real L R).2 =
      (makeUpGain Numerics.real dB * L, makeUpGain Numerics.real dB * R) := by
  have hsum : (L + R) / 2 + (L - R) / 2 = L := by ring
  have hdiff : (L + R) / 2 - (L - R) / 2 = R := by ring
  rw [midSideEncode_real, midSideDecode_real, hsum, hdiff, mul_comm L, mul_comm R]

end Sys2Proof.Machine

namespace Sys2Proof

open Machine

/-- Settles O19. -/
theorem encSplitsTheFrame : Obligations.EncSplitsTheFrame := by
  unfold Obligations.EncSplitsTheFrame
  exact ⟨by decide, rfl, fun s => (exec_enc s).trans (execEncIn_eq s)⟩

/-- Settles O20: the two outcomes of `DEC`, by whether `ACT[10]` is written. -/
theorem decJoinsTheFrame : Obligations.DecJoinsTheFrame := by
  unfold Obligations.DecJoinsTheFrame
  refine ⟨by decide, rfl, fun s dB h => ?_, fun s h => ?_⟩
  · exact (exec_dec s).trans (execDecIn_of_written h)
  · exact (exec_dec s).trans (execDecIn_of_unwritten h)

/-- Settles O55: the rows are the codec's formulas multiplied out, and the round trip at 0 dB is the one at gain 1. -/
theorem codecRoundTrip : Obligations.CodecRoundTrip := by
  unfold Obligations.CodecRoundTrip
  intro dB L R m s g
  refine ⟨?_, ?_, midSideDecode_midSideEncode_real dB L R, ?_, makeUpGain_real dB, makeUpGain_real_pos dB⟩
  · rw [midSideEncode_real, Prod.mk.injEq]
    constructor <;> ring
  · rw [midSideDecode_real, Prod.mk.injEq]
    constructor <;> ring
  · rw [midSideDecode_midSideEncode_real, makeUpGain_real_zero, one_mul, one_mul]

end Sys2Proof
end

section
/-! PROOFS. The saturator (44_saturator.md R141 to R145): the command `SAT` on the machine, and over the reals the bounds of its output and
its symmetry. -/

namespace Sys2Proof.Machine

variable {F : Type} {N : Numerics F}

/-! The command (R141). -/

theorem exec_sat (s : State) : exec .sat s = execSatIn Config.num s := rfl

theorem execSatIn_of_written {s : State F} {q : SatParams F} (h : readSatParams s = .next q) :
    execSatIn N s = .next (s.deliver (some (saturate N q s.opa)) none) :=
  execSatIn_eq_next.mpr ⟨q, h, rfl⟩

theorem act_written_of_readSatParams {s : State F} {q : SatParams F} (h : readSatParams s = .next q) {i : Fin 11} (h5 : 5 ≤ i.val)
    (h9 : i.val ≤ 9) : ∃ v, s.act[i] = some v := by
  obtain ⟨hampA, hslope, hmix, hampB, hfreq⟩ := readSatParams_eq_next.mp h
  obtain rfl | rfl | rfl | rfl | rfl : i = 5 ∨ i = 6 ∨ i = 7 ∨ i = 8 ∨ i = 9 := by omega
  · exact ⟨_, hampA⟩
  · exact ⟨_, hslope⟩
  · exact ⟨_, hmix⟩
  · exact ⟨_, hampB⟩
  · exact ⟨_, hfreq⟩

/-- V3, whichever of the five registers is unwritten: an answer would have read them all, and V3 is the command's only refusal. -/
theorem execSatIn_of_unwritten {s : State F} {i : Fin 11} (h5 : 5 ≤ i.val) (h9 : i.val ≤ 9) (h : s.act[i] = none) :
    execSatIn N s = .refused .v3Unwritten := by
  rcases next_or_refused (execSatIn N s) with ⟨t, hnext⟩ | ⟨r, hrefused⟩
  · obtain ⟨q, hq, _⟩ := execSatIn_eq_next.mp hnext
    obtain ⟨v, hv⟩ := act_written_of_readSatParams hq h5 h9
    cases h.symm.trans hv
  · rw [hrefused, execSatIn_refused hrefused]

/-! The saturator in `NUM_R` (R141, R142). -/

theorem satWet_real (q : SatParams ℝ) (x : ℝ) :
    satWet Numerics.real q x = q.ampA * 0.01 * Real.tanh (x * q.slope) + q.ampB * 0.01 * Real.sin (x * q.freq) := by
  norm_num [satWet, percent, Numerics.real]

theorem satMix_real (q : SatParams ℝ) : satMix Numerics.real q = q.mix * 0.01 := by
  norm_num [satMix, percent, Numerics.real]

theorem saturate_real (q : SatParams ℝ) (x : ℝ) :
    saturate Numerics.real q x = satWet Numerics.real q x * satMix Numerics.real q := rfl

/-! The bounds (R145). -/

theorem abs_saturate_real (q : SatParams ℝ) (x : ℝ) :
    |saturate Numerics.real q x| = |satWet Numerics.real q x| * |satMix Numerics.real q| := by
  rw [saturate_real, abs_mul]

/-- Each of the two shapes stays within -1 and 1, so its term stays within its scaled amplitude. -/
theorem abs_satWet_real_le (q : SatParams ℝ) (x : ℝ) : |satWet Numerics.real q x| ≤ |q.ampA| * 0.01 + |q.ampB| * 0.01 := by
  have hterm (a v : ℝ) (hv : |v| ≤ 1) : |a * 0.01 * v| ≤ |a| * 0.01 := by
    rw [abs_mul, abs_mul, abs_of_pos (by norm_num : (0 : ℝ) < 0.01)]
    exact mul_le_of_le_one_right (by positivity) hv
  rw [satWet_real]
  exact (abs_add_le _ _).trans (add_le_add (hterm _ _ (Real.abs_tanh_lt_one _).le) (hterm _ _ (Real.abs_sin_le_one _)))

theorem abs_saturate_real_le (q : SatParams ℝ) (x : ℝ) :
    |saturate Numerics.real q x| ≤ (|q.ampA| * 0.01 + |q.ampB| * 0.01) * |q.mix * 0.01| := by
  rw [abs_saturate_real, satMix_real]
  exact mul_le_mul_of_nonneg_right (abs_satWet_real_le q x) (abs_nonneg _)

/-- A mix between 0 and 100 only attenuates. -/
theorem abs_saturate_real_le_abs_satWet {q : SatParams ℝ} (h0 : 0 ≤ q.mix) (h100 : q.mix ≤ 100) (x : ℝ) :
    |saturate Numerics.real q x| ≤ |satWet Numerics.real q x| := by
  have hmix : |satMix Numerics.real q| ≤ 1 := by
    rw [satMix_real, abs_le]
    constructor <;> linarith
  rw [abs_saturate_real]
  exact mul_le_of_le_one_right (abs_nonneg _) hmix

/-! The symmetry (R141, corner cases a and b). -/

theorem satWet_real_neg (q : SatParams ℝ) (x : ℝ) : satWet Numerics.real q (-x) = -satWet Numerics.real q x := by
  simp only [satWet_real, neg_mul, Real.tanh_neg, Real.sin_neg]
  ring

theorem satWet_real_zero (q : SatParams ℝ) : satWet Numerics.real q 0 = 0 := by
  simp [satWet_real]

end Sys2Proof.Machine

namespace Sys2Proof

open Machine

/-- Settles O56: the bounds for amplitudes of either sign, in which a non-negative amplitude is its own magnitude. -/
theorem saturatorOutputIsBounded : Obligations.SaturatorOutputIsBounded := by
  unfold Obligations.SaturatorOutputIsBounded
  intro q x
  refine ⟨abs_saturate_real q x, abs_satWet_real_le q x, abs_saturate_real_le q x, fun hA hB => ?_⟩
  have hwet := abs_satWet_real_le q x
  have hout := abs_saturate_real_le q x
  rw [abs_of_nonneg hA, abs_of_nonneg hB] at hwet hout
  refine ⟨hwet, hout, fun h0 h100 => (abs_saturate_real_le_abs_satWet h0 h100 x).trans hwet, fun hA' hB' h0 h100 => ?_⟩
  have hwet2 : |satWet Numerics.real q x| ≤ 2 := by linarith
  exact ⟨hwet2, (abs_saturate_real_le_abs_satWet h0 h100 x).trans hwet2⟩

/-- Settles O21: the two outcomes of `SAT`, by whether the five registers are written. -/
theorem satShapesTheSample : Obligations.SatShapesTheSample := by
  unfold Obligations.SatShapesTheSample
  refine ⟨by decide, rfl, fun s a k m b f ha hk hm hb hf => ?_, fun s i h5 h9 h => ?_⟩
  · have hread : readSatParams s = .next ⟨a, k, m, b, f⟩ := readSatParams_eq_next.mpr ⟨ha, hk, hm, hb, hf⟩
    exact (exec_sat s).trans (execSatIn_of_written hread)
  · exact (exec_sat s).trans (execSatIn_of_unwritten h5 h9 h)

/-- Settles O57: the shape before the mix is odd, and the mix multiplies all of it. -/
theorem saturatorIsOddAndHasNoDryPath : Obligations.SaturatorIsOddAndHasNoDryPath := by
  unfold Obligations.SaturatorIsOddAndHasNoDryPath
  intro q x
  refine ⟨?_, ?_, fun hmix => ?_⟩
  · rw [saturate_real, satWet_real_zero, zero_mul]
  · rw [saturate_real, saturate_real, satWet_real_neg, neg_mul]
  · rw [saturate_real, satMix_real, hmix, zero_mul, mul_zero]

end Sys2Proof
end

section
/-! PROOFS. The commands that construct and configure the chain (45_chain_commands.md R151 to R153): `RST`, `SRATE` and `WRP`, and what the
ports take before the first `RST` (60_exceptions.md R172, V7). -/

namespace Sys2Proof.Machine

variable {F : Type} {N : Numerics F}

/-! The three commands. -/

/-- The table of 10_state.md R24, written out. -/
theorem paramDefaults_eq (N : Numerics F) :
    paramDefaults N = #v[N.lit (5 / 2), N.lit 250, N.lit 6, N.lit 140, N.lit 4000, N.lit 50, N.lit 7, N.lit 50, N.lit 50, N.lit 60,
      N.lit 0] := by
  simp [paramDefaults, paramDefaultRat]

theorem exec_rst (s : State) : exec .rst s = .next (construct Config.num s) := rfl

theorem construct_construct (s : State F) : construct N (construct N s) = construct N s := rfl

theorem execSrateIn_of_legal {s : State F} (h : N.lt (N.lit 0) s.opa = true) : execSrateIn N s = .next { s with fs := some s.opa } :=
  execSrateIn_eq_next.mpr ⟨h, rfl⟩

/-- V2 (60_exceptions.md R172). -/
theorem execSrateIn_of_illegal {s : State F} (h : N.lt (N.lit 0) s.opa = false) : execSrateIn N s = .refused .v2SampleRate := by
  simp [execSrateIn, rateOk, h]

theorem exec_wrp (a : BitVec 4) (s : State) : exec (.wrp a) s = execWrpIn a s := rfl

/-- The word of `WRP p` carries the index of parameter `p` (30_encoding.md R75). -/
theorem paramIndex_ofNat (p : Fin 11) : paramIndex (BitVec.ofNat 4 p.val) = some p := by
  revert p; decide

/-- The word 0x20 + p (30_encoding.md R74). -/
theorem encode_wrp (p : Fin 11) : encode (.wrp (BitVec.ofNat 4 p.val)) = BitVec.ofNat 8 (0x20 + p.val) := by
  revert p; decide

theorem wellFormed_wrp (p : Fin 11) : WellFormed (.wrp (BitVec.ofNat 4 p.val)) = true := by
  revert p; decide

theorem execWrpIn_ofNat (p : Fin 11) (s : State F) : execWrpIn (BitVec.ofNat 4 p.val) s = .next { s with p := s.p.set p s.pdata } :=
  execWrpIn_eq_next.mpr ⟨p, paramIndex_ofNat p, rfl⟩

/-- V5 (30_encoding.md R80). -/
theorem execWrpIn_of_reserved {a : BitVec 4} (ha : paramArgOk a = false) (s : State F) : execWrpIn a s = .refused .v5Reserved := by
  simp only [execWrpIn, paramIndex_eq_none.mpr ha]

/-! The ports before the first `RST`. -/

variable {run : Instr → State F → Out (State F)}

/-- R151: the command port takes `RST` whatever `SEQ` holds. -/
theorem takeCommand_rst_before_reset {tx : CmdTx F} {s : State F} (hb : s.built = false) (hd : decodeWord tx.cw = .ok .rst) :
    takeCommand run tx s = run .rst (s.present tx) := by
  simp [takeCommand, hd, hb, Instr.agent]

/-- V7 on the command port. -/
theorem takeCommand_before_reset {tx : CmdTx F} {s : State F} (hb : s.built = false) (hd : decodeWord tx.cw ≠ .ok .rst) :
    takeCommand run tx s = .refused .v7BeforeReset := by
  unfold takeCommand
  split
  next i hi =>
    have hne : i ≠ .rst := fun h => hd (h ▸ hi)
    simp [hb, hne]
  next => simp [hb]

/-- V7 on the parameter port. -/
theorem takeParam_before_reset {tx : ParamTx F} {s : State F} (hb : s.built = false) : takeParam tx s = .refused .v7BeforeReset := by
  simp [takeParam, hb]

end Sys2Proof.Machine

namespace Sys2Proof

open Machine

/-- Settles O7. -/
theorem rstConstructsTheChain : Obligations.RstConstructsTheChain := by
  unfold Obligations.RstConstructsTheChain
  refine ⟨by decide, rfl, fun s => ⟨construct Config.num s, exec_rst s, ?_, ?_⟩⟩
  · rw [exec_rst, construct_construct]
  · rw [← paramDefaults_eq]
    rfl

/-- Settles O8: the two outcomes of `SRATE`, and the first of them at 48000. -/
theorem srateSetsTheRate : Obligations.SrateSetsTheRate := by
  refine InAnyNumerics.intro fun F _ _ N => ⟨by decide, rfl, fun s => execSrateIn_of_legal, fun s => execSrateIn_of_illegal,
    fun h s hs => ?_⟩
  rw [← hs] at h ⊢
  exact execSrateIn_of_legal h

/-- Settles O9: an index up to 10 names a parameter, and no other does. -/
theorem wrpStoresOneParameter : Obligations.WrpStoresOneParameter := by
  unfold Obligations.WrpStoresOneParameter
  refine ⟨fun p => ⟨decodeWord_eq_ok.mpr ⟨wellFormed_wrp p, encode_wrp p⟩, rfl, fun s => ?_⟩, fun a s ha => ?_⟩
  · rw [exec_wrp, execWrpIn_ofNat]
  · rw [exec_wrp, execWrpIn_of_reserved (decide_eq_false (Nat.not_le.mpr ha))]

/-- Settles O40: the step takes the transaction, and of the words of both ports only `RST` has a meaning. -/
theorem powerOnTakesOnlyRst : Obligations.PowerOnTakesOnlyRst := by
  unfold Obligations.PowerOnTakesOnlyRst
  refine ⟨fun s tx rest hbuilt hdue haud => ?_, fun s tx rest hbuilt hc => ?_⟩
  · have hstep : step s = takeCommand exec tx (s.setAudIn rest) := takeNext_of_audIn hdue haud
    refine ⟨fun hd => ?_, fun hd => hstep.trans (takeCommand_before_reset hbuilt hd)⟩
    exact ⟨construct Config.num ((s.setAudIn rest).present tx), hstep.trans (takeCommand_rst_before_reset hbuilt hd),
      rfl, rfl, rfl, rfl, rfl, rfl, paramDefaults_eq Config.num, rfl⟩
  · calc step s = takeParam tx (s.setCtlIn rest) := takeNext_of_ctlIn hc (.inl rfl)
      _ = .refused .v7BeforeReset := takeParam_before_reset hbuilt

end Sys2Proof
end

section
/-! PROOFS. `LATCH` with nothing pending and `LATCH` with legal writes pending (45_chain_commands.md R154), and the count of micro-steps that a
waiting `CTL` write sees of each command (R160; 20_memory.md R58). -/

namespace Sys2Proof.Machine

variable {F : Type} {N : Numerics F} [Inhabited F] [DecidableEq F]

/-- With nothing pending the snapshot is `P` as it stands. -/
theorem execLatchIn_quiet {s : State F} (hq : s.ctlIn = []) : execLatchIn N s = .next (afterLatch s s.ctlIn) := by
  rw [execLatchIn, runCommand_quiet _ _ hq, latch_quiet]
  rfl

omit [Inhabited F] [DecidableEq F] in
/-- Of pending transactions that are all legal writes, none is a violation on a constructed block. -/
theorem not_pendingViolation {s : State F} {r : Refusal} (hb : s.built = true) (hlegal : ∀ e ∈ s.ctlIn, LegalWrite e.2) :
    ¬ PendingViolation s r := by
  rintro (⟨_, e, he, hill⟩ | ⟨_, _, hunbuilt⟩)
  · exact hill (hlegal e he)
  · exact absurd (hb.symm.trans hunbuilt) nofun

/-! The lengths of the plans (R160). -/

theorem latchPlan_length (o : Equiv.Perm (Fin 11)) : (latchPlan o).length = 11 := by
  simp [latchPlan]

theorem framePlan_length (n : Nat) : (framePlan n).length = 11 := rfl

theorem procPlan_length (o : Equiv.Perm (Fin 11)) (n : Nat) : (procPlan o n).length = 14 + 11 * n := by
  have hcoefs : coefPlan.length = 3 := rfl
  simp only [procPlan, List.length_append, List.length_flatMap, latchPlan_length, hcoefs, framePlan_length, List.map_const', List.length_range,
    List.sum_replicate, smul_eq_mul]
  omega

/-! A write that waits for longer than a command takes. -/

/-- `n` micro-steps after `s`, in which the first pending write had `g` to wait for, none has landed. -/
structure Waited (n g : Nat) (tx : ParamTx F) (r : List (Nat × ParamTx F)) (s t : State F) : Prop where
  pending : t.ctlIn = (g - n, tx) :: r
  params : t.p = s.p

omit [Inhabited F] [DecidableEq F] in
/-- A gap in which nothing is due: the write that waits has one micro-step less to wait for. -/
theorem between_waited {s t : State F} {g : Nat} {tx : ParamTx F} {r : List (Nat × ParamTx F)} (hc : s.ctlIn = (g + 1, tx) :: r)
    (h : between s = .next t) : Waited 1 (g + 1) tx r s t := by
  simp only [between, hc, landDueFrom, andThen_next, Host.Outcome.next.injEq] at h
  subst h
  exact ⟨by simp [hc, tickQueue], rfl⟩

theorem runRest_waited {plan : List (Nat × Phase)} {w v : Work F} {g : Nat} {tx : ParamTx F} {r : List (Nat × ParamTx F)}
    (hc : w.st.ctlIn = (g, tx) :: r) (hg : plan.length ≤ g) (h : runRest N plan w = .next v) : Waited plan.length g tx r w.st v.st := by
  induction plan generalizing w g with
  | nil =>
    cases h
    exact ⟨hc, rfl⟩
  | cons e rest ih =>
    obtain ⟨n, ph⟩ := e
    rw [List.length_cons] at hg ⊢
    obtain ⟨g, rfl⟩ : ∃ g', g = g' + 1 := ⟨g - 1, by omega⟩
    obtain ⟨s, hgap, h⟩ := andThen_eq_next.mp h
    obtain ⟨u, hmicro, hrest⟩ := andThen_eq_next.mp h
    obtain ⟨hs, hsp⟩ := between_waited (s := w.st.setSeq (.run n ph)) hc hgap
    obtain ⟨_, hup, _, hu⟩ := micro_ctl hmicro
    obtain ⟨hv, hvp⟩ := ih (g := g) (hu.trans hs) (by omega) hrest
    exact ⟨by rw [hv, Nat.add_sub_add_right], hvp.trans (hup.trans hsp)⟩

/-- A command of several micro-steps: the first of them has passed when its operands stand on the port. -/
theorem runCommand_waited {plan : List (Nat × Phase)} {s t : State F} {g : Nat} {tx : ParamTx F} {r : List (Nat × ParamTx F)}
    (hc : s.ctlIn = (g, tx) :: r) (hplan : plan ≠ []) (hg : plan.length ≤ g + 1) (h : runCommand N plan s = .next t) :
    Waited plan.length (g + 1) tx r s t := by
  obtain ⟨⟨n, ph⟩, rest, rfl⟩ := List.exists_cons_of_ne_nil hplan
  rw [List.length_cons] at hg ⊢
  obtain ⟨w, hrun, rfl⟩ := runCommand_eq_next h
  obtain ⟨u, hmicro, hrest⟩ := andThen_eq_next.mp hrun
  obtain ⟨_, hup, _, hu⟩ := micro_ctl hmicro
  obtain ⟨hv, hvp⟩ := runRest_waited (hu.trans hc) (by omega) hrest
  exact ⟨by rw [Nat.add_sub_add_right]; exact hv, hvp.trans hup⟩

/-- A command that takes one micro-step lets nothing land. -/
theorem execIn_one_step {i : Instr} {s t : State F} (h : execIn N i s = .next t) (haud : i.agent = .aud) (hlatch : i ≠ .latch)
    (hproc : i ≠ .proc) : t.ctlIn = s.ctlIn ∧ (i ≠ .rst → t.p = s.p) := by
  cases i with
  | rst =>
    cases h
    exact ⟨rfl, fun hrst => absurd rfl hrst⟩
  | srate =>
    obtain ⟨_, rfl⟩ := execSrateIn_eq_next.mp h
    exact ⟨rfl, fun _ => rfl⟩
  | wrp a => cases haud
  | latch => exact absurd rfl hlatch
  | cls a =>
    obtain ⟨k, _, hcalc⟩ := execClsIn_eq_next.mp h
    obtain ⟨fs, G, f, _, _, _, _, rfl⟩ := calcShelf_eq_next.mp hcalc
    exact ⟨rfl, fun _ => rfl⟩
  | chp =>
    obtain ⟨fs, f, _, _, _, rfl⟩ := calcHighPass_eq_next.mp h
    exact ⟨rfl, fun _ => rfl⟩
  | bq a =>
    obtain ⟨k, c, _, _, rfl⟩ := execBqIn_eq_next.mp h
    exact ⟨rfl, fun _ => rfl⟩
  | enc =>
    cases h
    exact ⟨rfl, fun _ => rfl⟩
  | dec =>
    obtain ⟨dB, _, rfl⟩ := execDecIn_eq_next.mp h
    exact ⟨rfl, fun _ => rfl⟩
  | sat =>
    obtain ⟨q, _, rfl⟩ := execSatIn_eq_next.mp h
    exact ⟨rfl, fun _ => rfl⟩
  | proc => exact absurd rfl hproc

theorem microSteps_of_one_step {i : Instr} (hlatch : i ≠ .latch) (hproc : i ≠ .proc) (len : BitVec 32) : microSteps i len = 1 := by
  cases i with
  | latch => exact absurd rfl hlatch
  | proc => exact absurd rfl hproc
  | _ => rfl

theorem microSteps_pos (i : Instr) (len : BitVec 32) : 0 < microSteps i len := by
  cases i with
  | proc =>
    simp only [microSteps]
    split <;> omega
  | _ => exact Nat.succ_pos _

/-- Each command of `AUD`, its first micro-step passed, lets pass the others that R160 counts for it. -/
theorem execIn_waited {i : Instr} {s t : State F} {g : Nat} {tx : ParamTx F} {r : List (Nat × ParamTx F)} (haud : i.agent = .aud)
    (hc : s.ctlIn = (g, tx) :: r) (hg : microSteps i s.len ≤ g + 1) (h : execIn N i s = .next t) :
    t.ctlIn = (g + 1 - microSteps i s.len, tx) :: r ∧ (i ≠ .rst → t.p = s.p) := by
  by_cases hlatch : i = .latch
  · subst hlatch
    have hlen : (latchPlan (Config.latchOrder s.latches)).length = microSteps .latch s.len := latchPlan_length _
    rw [← hlen] at hg ⊢
    obtain ⟨hpending, hparams⟩ := runCommand_waited hc (List.ne_nil_of_length_pos (hlen ▸ microSteps_pos _ _)) hg h
    exact ⟨hpending, fun _ => hparams⟩
  by_cases hproc : i = .proc
  · subst hproc
    rcases execProcIn_eq_next.mp h with ⟨h0, rfl⟩ | ⟨h0, _, _, hrun⟩
    · exact ⟨by simp [microSteps, h0, hc], fun _ => rfl⟩
    · have hlen : (procPlan (Config.latchOrder s.latches) s.len.toNat).length = microSteps .proc s.len :=
        (procPlan_length _ _).trans (if_neg h0).symm
      rw [← hlen] at hg ⊢
      obtain ⟨hpending, hparams⟩ := runCommand_waited hc (List.ne_nil_of_length_pos (hlen ▸ microSteps_pos _ _)) hg hrun
      exact ⟨hpending, fun _ => hparams⟩
  · rw [microSteps_of_one_step hlatch hproc]
    exact (execIn_one_step h haud hlatch hproc).imp_left fun hsame => hsame.trans hc

end Sys2Proof.Machine

namespace Sys2Proof

open Machine

/-- Settles O10. -/
theorem latchCopiesTheParameters : Obligations.LatchCopiesTheParameters := by
  unfold Obligations.LatchCopiesTheParameters
  refine ⟨by decide, rfl, fun s hquiet => ?_⟩
  rw [exec_eq_execIn]
  exact execLatchIn_quiet hquiet

/-- Settles O13: a `LATCH` is refused for a pending violation only, and none of the writes is one. -/
theorem latchAlwaysCompletes : Obligations.LatchAlwaysCompletes := by
  unfold Obligations.LatchAlwaysCompletes
  intro s hbuilt hlegal
  rw [exec_eq_execIn]
  rcases next_or_refused (execIn Config.num .latch s) with hnext | ⟨r, hrefused⟩
  · exact hnext
  · exact absurd (execLatchIn_refused hrefused) (not_pendingViolation hbuilt hlegal)

/-- Settles O29: the port takes the command and its first micro-step passes; the command lets pass the others. -/
theorem microStepsAreCounted : Obligations.MicroStepsAreCounted := by
  unfold Obligations.MicroStepsAreCounted
  refine ⟨fun o n => ⟨latchPlan_length o, procPlan_length o n⟩, fun s t tx rest i g w r haud hd hc hg h => ?_⟩
  have hpos := microSteps_pos i tx.len
  obtain ⟨g, rfl⟩ : ∃ g', g = g' + 1 := ⟨g - 1, by omega⟩
  have hdue : ∀ w r, s.ctlIn ≠ (0, w) :: r := by simp [hc]
  have hstep : step s = takeCommand exec tx (s.setAudIn rest) := takeNext_of_audIn hdue haud
  obtain ⟨j, hdj, _, hagent, _, hrun⟩ := takeCommand_eq_next.mp (hstep.symm.trans h)
  obtain rfl : i = j := Except.ok.inj (hd.symm.trans hdj)
  rw [exec_eq_execIn] at hrun
  exact execIn_waited (s := (s.setAudIn rest).present tx) hagent (by simp [hc, tickQueue]) hg hrun

end Sys2Proof
end

section
/-! PROOFS. `PROC` with nothing pending (45_chain_commands.md R158, R159): the empty block, the three refusals, and the block that completes. -/

namespace Sys2Proof.Machine

variable {F : Type} {N : Numerics F} [Inhabited F] [DecidableEq F]

theorem exec_proc (s : State) : exec .proc s = execProcIn Config.num s := rfl

theorem execProcIn_of_empty {s : State F} (h : s.len = 0#32) : execProcIn N s = .next s := if_pos h

/-- V4 comes before all else (R158). -/
theorem execProcIn_of_too_long {s : State F} (h : Config.NMAX < s.len.toNat) : execProcIn N s = .refused .v4BlockLength := by
  have h0 : s.len ≠ 0#32 := fun h0 => by simp [h0] at h
  rw [execProcIn, if_neg h0, if_pos h]

/-- A non-empty block that fits runs its plan, when a rate is set. -/
theorem execProcIn_of_fits {s : State F} (h0 : s.len ≠ 0#32) (hfit : s.len.toNat ≤ Config.NMAX) :
    execProcIn N s = andThen (readFs s) fun _ => runCommand N (procPlan (Config.latchOrder s.latches) s.len.toNat) s := by
  rw [execProcIn, if_neg h0, if_neg (Nat.not_lt.mpr hfit)]

omit [Inhabited F] [DecidableEq F] in
theorem not_pendingViolation_v4 {s : State F} : ¬ PendingViolation s .v4BlockLength := by
  rintro (⟨h, _⟩ | ⟨h, _⟩) <;> cases h

/-- Neither the rate, nor a gap, nor a micro-step refuses a block that fits with V4. -/
theorem execProcIn_ne_v4_of_fits {s : State F} (h0 : s.len ≠ 0#32) (hfit : s.len.toNat ≤ Config.NMAX) :
    execProcIn N s ≠ .refused .v4BlockLength := by
  intro h
  rw [execProcIn_of_fits h0 hfit] at h
  rcases andThen_eq_refused.mp h with hfs | ⟨_, _, hrun⟩
  · cases (readWritten_eq_refused.mp hfs).2
  rcases runCommand_refused hrun with hpending | ⟨e, he, v, hmicro⟩
  · exact not_pendingViolation_v4 hpending
  · have hn : e.1 < Config.NMAX := by
      have := frame_of_mem_procPlan he
      have := Config.NMAX_pos
      omega
    rcases (micro_refused hn hmicro).1 with h | h <;> cases h

theorem execProcIn_eq_v4 {s : State F} : execProcIn N s = .refused .v4BlockLength ↔ Config.NMAX < s.len.toNat := by
  refine ⟨fun h => Nat.lt_of_not_le fun hfit => ?_, execProcIn_of_too_long⟩
  by_cases h0 : s.len = 0#32
  · cases (execProcIn_of_empty h0).symm.trans h
  · exact execProcIn_ne_v4_of_fits h0 hfit h

/-- V3 (R158). -/
theorem execProcIn_of_unrated {s : State F} (h0 : s.len ≠ 0#32) (hfit : s.len.toNat ≤ Config.NMAX) (hfs : s.fs = none) :
    execProcIn N s = .refused .v3Unwritten := by
  rw [execProcIn_of_fits h0 hfit, readFs, hfs, readWritten_none, andThen_refused]

/-- V1: with nothing pending the snapshot is `P`, whose cutoffs the coefficient computations test (R159). -/
theorem execProcIn_quiet_illegal {s : State F} {fs : F} (hq : s.ctlIn = []) (h0 : s.len ≠ 0#32) (hfit : s.len.toNat ≤ Config.NMAX)
    (hfs : s.fs = some fs) (hbad : blockCutoffsOk N s.p fs = false) : execProcIn N s = .refused .v1Cutoff := by
  obtain ⟨_, hblock⟩ := microFold_blockPlan (N := N) (s := { s.countLatch with act := s.p.map some }) (v := s.p) rfl hfs hfit Temps.blank
  rw [hbad] at hblock
  rw [execProcIn_of_fits h0 hfit, readFs, hfs, readWritten_some, andThen_next, runCommand_quiet _ _ hq, procPlan_eq_latch_block,
    microFold_append, latch_quiet, andThen_next]
  exact congrArg (mapOut _) hblock

/-- So a non-empty block that completes with nothing pending is the chain's. -/
theorem eq_afterProc_of_quiet {s t : State F} {fs : F} (hq : s.ctlIn = []) (hfs : s.fs = some fs) (h0 : s.len ≠ 0#32)
    (h : execProcIn N s = .next t) : t = afterProc N s fs := by
  obtain ⟨hfit, _, _⟩ := execProcIn_of_nonempty h h0
  cases hok : blockCutoffsOk N s.p fs with
  | false => cases (execProcIn_quiet_illegal hq h0 hfit hfs hok).symm.trans h
  | true =>
    cases (execProcIn_quiet hq h0 hfit hfs hok).symm.trans h
    rfl

end Sys2Proof.Machine

namespace Sys2Proof

open Machine

/-- Settles O24. -/
theorem procEmptyBlockIsNoOp : Obligations.ProcEmptyBlockIsNoOp := by
  unfold Obligations.ProcEmptyBlockIsNoOp
  exact ⟨by decide, rfl, fun s h => (exec_proc s).trans (execProcIn_of_empty h)⟩

/-- Settles O25: the length is tested first, then the rate, and the cutoffs once the snapshot is taken. -/
theorem procRefusals : Obligations.ProcRefusals :=
  InAnyNumerics.intro fun _ _ _ _ => ⟨fun _ => execProcIn_eq_v4, fun _ => execProcIn_of_unrated,
    fun _ _ h0 hfit hfs hquiet hbad => execProcIn_quiet_illegal hquiet h0 hfit hfs hbad⟩

/-- Settles O26: with nothing landing inside, the snapshot is `P` and the frames are the chain's, in place. -/
theorem procCompletesAsTheChain : Obligations.ProcCompletesAsTheChain :=
  InAnyNumerics.intro fun _ _ _ _ _ _ h0 hfit hfs hquiet hok => execProcIn_quiet hquiet h0 hfit hfs hok

end Sys2Proof
end

section
/-! PROOFS. `PROC` and its expansion (45_chain_commands.md R162; 30_encoding.md R83): what a host's line does to an idle block, line by line,
then `BEGIN`, one `FRAME` with the host's buffer accesses, and all the frames. The expansion leaves traces on the ports only. -/

namespace Sys2Proof.Machine

variable {F : Type} {N : Numerics F}

/-! What the expansion may leave different from `PROC`: the ports of the commands. -/

/-- `s` with the command ports as `c` has them: operands, results, and the parameter port's queue, in which time passes. -/
def State.withCmdPorts (s c : State F) : State F :=
  { s with opa := c.opa, opb := c.opb, len := c.len, rsa := c.rsa, rsb := c.rsb, ctlIn := c.ctlIn }

/-- A block that takes a command (30_encoding.md R77). -/
structure Ready (s : State F) : Prop where
  built : s.built = true
  idle : s.seq = .idle

theorem RunsWith.withCmdPorts {q : ChainParams F} {s : State F} (h : RunsWith q s) (c : State F) : RunsWith q (s.withCmdPorts c) :=
  ⟨h.mid, h.high, h.side, h.makeUp, h.sat⟩

theorem HasSnapshot.present {s : State F} {v : Vector F 11} (h : HasSnapshot s v) (tx : CmdTx F) : HasSnapshot (s.present tx) v := h

/-! One line (R81, R82). -/

variable [Inhabited F] [DecidableEq F]

theorem assemble_port (l : AsmLine) : (assemble l).port = l.instr.agent := by
  cases l <;> rfl

theorem assemble_cw (l : AsmLine) : (assemble l).cw = encode l.instr := by
  cases l <;> rfl

/-- A line of `AUD` whose operands are bound, issued to a ready block, is the command run with the operands on the port: it leaves the block
as `u`, but for the command ports, when the command does. -/
theorem issueLine_of_ready {l : AsmLine} {env : AsmEnv F} {s t u : State F} {a b : F} (hs : Ready s) (haud : l.instr.agent = .aud)
    (hwf : WellFormed l.instr = true) (ha : portValue N env (assemble l).opa = some a) (hb : portValue N env (assemble l).opb = some b)
    (hrun : execIn N l.instr (s.present ⟨encode l.instr, a, b, (assemble l).len.getD 0#32⟩) = .next t) (ht : t = u.withCmdPorts t) :
    ∃ c, issueLine N (execIn N) l env s = some (.next (bindResults l t env, u.withCmdPorts c)) := by
  refine ⟨t, ?_⟩
  have htake := takeCommand_of_idle (run := execIn N) (tx := ⟨encode l.instr, a, b, (assemble l).len.getD 0#32⟩)
    (decodeWord_eq_ok.mpr ⟨hwf, rfl⟩) haud hs.built hs.idle
  simp only [issueLine, ha, hb, assemble_port, haud, assemble_cw, htake, hrun, mapOut_next, ← ht]

/-! The lines of an expansion, each the command of its own section on a ready block. -/

theorem issueLine_latch {env : AsmEnv F} {s : State F} (hs : Ready s) (hq : s.ctlIn = []) :
    ∃ c, issueLine N (execIn N) .latch env s = some (.next (env, (afterLatch s []).withCmdPorts c)) :=
  issueLine_of_ready (l := .latch) hs rfl rfl rfl rfl (execLatchIn_quiet (by simp [hq, tickQueue])) rfl

theorem issueLine_cls {env : AsmEnv F} {s : State F} {v : Vector F 11} {fs : F} (k : Shelf) (hs : Ready s) (hsnap : HasSnapshot s v)
    (hfs : s.fs = some fs) (hok : cutoffOk N v[shelfFreq k] fs = true) :
    ∃ c, issueLine N (execIn N) (.cls (BitVec.ofNat 4 (shelfStage k).val)) env s =
      some (.next (env, (s.setCoef (shelfStage k) (some (shelfCoef N v[shelfGain k] v[shelfFreq k] fs))).withCmdPorts c)) := by
  have hwf : WellFormed (.cls (BitVec.ofNat 4 (shelfStage k).val)) = true := by cases k <;> rfl
  exact issueLine_of_ready (l := .cls _) hs rfl hwf rfl rfl
    ((execClsIn_shelfStage k _).trans ((calcShelf_of_snapshot (hsnap.present _) hfs k).trans (if_pos hok))) rfl

theorem issueLine_chp {env : AsmEnv F} {s : State F} {v : Vector F 11} {fs : F} (hs : Ready s) (hsnap : HasSnapshot s v)
    (hfs : s.fs = some fs) (hok : cutoffOk N v[highPassFreq] fs = true) :
    ∃ c, issueLine N (execIn N) .chp env s =
      some (.next (env, (s.setCoef 1 (some (highPassCoef N v[highPassFreq] fs))).withCmdPorts c)) :=
  issueLine_of_ready (l := .chp) hs rfl rfl rfl rfl ((calcHighPass_of_snapshot (hsnap.present _) hfs).trans (if_pos hok)) rfl

theorem issueLine_enc {env : AsmEnv F} {s : State F} {l r : AsmOperand} {a b : F} (m d : String) (hs : Ready s)
    (hl : l.value N env = some a) (hr : r.value N env = some b) :
    ∃ c, issueLine N (execIn N) (.enc l r m d) env s =
      some (.next ((d, (midSideEncode N a b).2) :: (m, (midSideEncode N a b).1) :: env, s.withCmdPorts c)) :=
  issueLine_of_ready (l := .enc l r m d) hs rfl rfl hl hr (execEncIn_eq _) rfl

theorem issueLine_bq {env : AsmEnv F} {s : State F} {x : AsmOperand} {a : F} {c : Coef F} {z : ZPair F} (k : Fin 3) (y : String)
    (hs : Ready s) (hx : x.value N env = some a) (hc : s.coef[k] = some c) (hz : s.z[k] = z) :
    ∃ p, issueLine N (execIn N) (.bq (BitVec.ofNat 4 k.val) x y) env s =
      some (.next ((y, (biquadStep N c z a).1) :: env, (s.setZ k (biquadStep N c z a).2).withCmdPorts p)) := by
  subst hz
  exact issueLine_of_ready (l := .bq _ x y) hs rfl (wellFormed_bq k) hx rfl
    (execBqIn_of_written (s := s.present ⟨encode (.bq (BitVec.ofNat 4 k.val)), a, default, 0#32⟩) hc a) rfl

theorem issueLine_dec {env : AsmEnv F} {s : State F} {m d : AsmOperand} {a b dB : F} (l r : String) (hs : Ready s)
    (hm : m.value N env = some a) (hd : d.value N env = some b) (hact : s.act[(10 : Fin 11)] = some dB) :
    ∃ c, issueLine N (execIn N) (.dec m d l r) env s =
      some (.next ((r, (midSideDecode N dB a b).2) :: (l, (midSideDecode N dB a b).1) :: env, s.withCmdPorts c)) :=
  issueLine_of_ready (l := .dec m d l r) hs rfl rfl hm hd (execDecIn_of_written hact) rfl

theorem issueLine_sat {env : AsmEnv F} {s : State F} {x : AsmOperand} {a : F} {q : SatParams F} (out : String) (hs : Ready s)
    (hx : x.value N env = some a) (hq : readSatParams s = .next q) :
    ∃ c, issueLine N (execIn N) (.sat x out) env s = some (.next ((out, saturate N q a) :: env, s.withCmdPorts c)) :=
  issueLine_of_ready (l := .sat x out) hs rfl rfl hx rfl (execSatIn_of_written hq) rfl

/-! Lines one after the other. -/

omit [DecidableEq F] in
theorem issueLines_append_of_next {run : Instr → State F → Out (State F)} {ls ls' : List AsmLine} {env e : AsmEnv F} {s t : State F}
    (h : issueLines N run ls env s = some (.next (e, t))) : issueLines N run (ls ++ ls') env s = issueLines N run ls' e t := by
  induction ls generalizing env s with
  | nil =>
    cases h
    rfl
  | cons l ls ih =>
    simp only [List.cons_append, issueLines] at h ⊢
    split at h
    next env' s' _ => exact ih h
    all_goals cases h

/-- The lines complete: they leave the block as `u`, but for the command ports, and names bound as `post` says. -/
def Complete (N : Numerics F) (ls : List AsmLine) (env : AsmEnv F) (s : State F) (post : AsmEnv F → Prop) (u : State F) : Prop :=
  ∃ c e, issueLines N (execIn N) ls env s = some (.next (e, u.withCmdPorts c)) ∧ post e

theorem Complete.nil {env : AsmEnv F} {s u : State F} {post : AsmEnv F → Prop} (hs : s = u.withCmdPorts s) (hpost : post env) :
    Complete N [] env s post u :=
  ⟨s, env, by rw [← hs]; rfl, hpost⟩

theorem Complete.cons {l : AsmLine} {ls : List AsmLine} {env env' : AsmEnv F} {s t u : State F} {post : AsmEnv F → Prop}
    (h : ∃ c, issueLine N (execIn N) l env s = some (.next (env', t.withCmdPorts c)))
    (hrest : ∀ c, Complete N ls env' (t.withCmdPorts c) post u) : Complete N (l :: ls) env s post u := by
  obtain ⟨c, hc⟩ := h
  simpa only [Complete, issueLines, hc] using hrest c

theorem Complete.append {ls ls' : List AsmLine} {env : AsmEnv F} {s t u : State F} {post post' : AsmEnv F → Prop}
    (h : Complete N ls env s post t) (hrest : ∀ c e, post e → Complete N ls' e (t.withCmdPorts c) post' u) :
    Complete N (ls ++ ls') env s post' u := by
  obtain ⟨c, e, hc, he⟩ := h
  simpa only [Complete, issueLines_append_of_next hc] using hrest c e he

/-- `BEGIN` takes the snapshot and computes the coefficients from it (R83). -/
theorem complete_beginLines {s : State F} {fs : F} (hs : Ready s) (hq : s.ctlIn = []) (hfs : s.fs = some fs)
    (hok : blockCutoffsOk N s.p fs = true) :
    Complete N beginLines [] s (fun _ => True) ((afterLatch s []).withCoefs (blockParams N s.p fs)) := by
  simp only [blockCutoffsOk, Bool.and_eq_true] at hok
  obtain ⟨⟨hmid, hhigh⟩, hside⟩ := hok
  rw [← State.setCoef_each]
  refine .cons (issueLine_latch hs hq) fun c => ?_
  refine .cons (issueLine_cls (v := s.p) .mid ⟨hs.built, rfl⟩ rfl hfs hmid) fun c => ?_
  refine .cons (issueLine_chp (v := s.p) ⟨hs.built, rfl⟩ rfl hfs hhigh) fun c => ?_
  refine .cons (issueLine_cls (v := s.p) .side ⟨hs.built, rfl⟩ rfl hfs hside) fun c => ?_
  exact .nil rfl trivial

/-! One frame (R83, R161). -/

/-- `FRAME`'s lines up to the stages: encode, then the three stages on the mid and the side signal. -/
def stageLines : List AsmLine :=
  [.enc (.name "l") (.name "r") "m" "s", .bq 0#4 (.name "m") "m1", .bq 1#4 (.name "s") "s1", .bq 2#4 (.name "s1") "s2"]

/-- `FRAME`'s lines after the stages: decode and saturate both channels. -/
def outputLines : List AsmLine :=
  [.dec (.name "m1") (.name "s2") "ld" "rd", .sat (.name "ld") "lo", .sat (.name "rd") "ro"]

theorem frameLines_eq_parts : frameLines (.name "l") (.name "r") "lo" "ro" = stageLines ++ outputLines := rfl

/-- The names `x` and `y` stand for the two values. -/
def Binds (x y : String) (v : F × F) (env : AsmEnv F) : Prop := env.lookup x = some v.1 ∧ env.lookup y = some v.2

theorem complete_stageLines {q : ChainParams F} {s : State F} (hs : Ready s) (hq : RunsWith q s) (x : F × F) :
    let ms := midSideEncode N x.1 x.2
    let r := chainStages N q (chainStateOf s.z) ms.1 ms.2
    Complete N stageLines [("l", x.1), ("r", x.2)] s (Binds "m1" "s2" r.1) (s.withChain (s.buf, r.2)) := by
  intro ms r
  have hz1 (s : State F) (v : ZPair F) : (s.setZ 0 v).z[(1 : Fin 3)] = s.z[(1 : Fin 3)] := s.setZ_z_ne (by decide) v
  have hz2 (s : State F) (v w : ZPair F) : ((s.setZ 0 v).setZ 1 w).z[(2 : Fin 3)] = s.z[(2 : Fin 3)] :=
    (State.setZ_z_ne _ (by decide) w).trans (s.setZ_z_ne (by decide) v)
  rw [← State.setZ_each]
  refine .cons (issueLine_enc "m" "s" hs rfl rfl) fun c => ?_
  refine .cons (issueLine_bq 0 "m1" ⟨hs.built, hs.idle⟩ rfl hq.mid rfl) fun c => ?_
  refine .cons (issueLine_bq 1 "s1" ⟨hs.built, hs.idle⟩ rfl hq.high (hz1 s _)) fun c => ?_
  refine .cons (issueLine_bq 2 "s2" ⟨hs.built, hs.idle⟩ rfl hq.side (hz2 s _ _)) fun c => ?_
  exact .nil rfl ⟨rfl, rfl⟩

theorem complete_outputLines {q : ChainParams F} {s : State F} {env : AsmEnv F} {y : F × F} (hs : Ready s) (hq : RunsWith q s)
    (henv : Binds "m1" "s2" y env) : Complete N outputLines env s (Binds "lo" "ro" (chainOutput N q y.1 y.2)) s := by
  obtain ⟨hm, hd⟩ := henv
  refine .cons (issueLine_dec "ld" "rd" hs hm hd hq.makeUp) fun c => ?_
  refine .cons (issueLine_sat "lo" ⟨hs.built, hs.idle⟩ rfl hq.sat) fun c => ?_
  refine .cons (issueLine_sat "ro" ⟨hs.built, hs.idle⟩ rfl hq.sat) fun c => ?_
  exact .nil rfl ⟨rfl, rfl⟩

/-- `FRAME` on a frame is the chain on it (R161, R162). -/
theorem complete_frameLines {q : ChainParams F} {s : State F} (hs : Ready s) (hq : RunsWith q s) (x : F × F) :
    let r := chainFrame N q (chainStateOf s.z) x
    Complete N (frameLines (.name "l") (.name "r") "lo" "ro") [("l", x.1), ("r", x.2)] s (Binds "lo" "ro" r.1)
      (s.withChain (s.buf, r.2)) := by
  rw [chainFrame_eq, frameLines_eq_parts]
  refine (complete_stageLines hs hq x).append fun c e he => ?_
  obtain ⟨p, e', hlines, hbinds⟩ := complete_outputLines (N := N) (s := (s.withChain (s.buf, _)).withCmdPorts c) ⟨hs.built, hs.idle⟩
    ((hq.withChain _).withCmdPorts c) he
  exact ⟨p, e', hlines, hbinds⟩

theorem hostWrite_of_ready {s : State F} {a : Nat} (hs : Ready s) (ha : a < 2 * Config.NMAX) (v : F) :
    hostWrite a v s = .next (s.setBuf (bufWrite s.buf a v)) :=
  hostWrite_eq_next.mpr ⟨blockOwns_of_idle hs.idle a, ha, rfl⟩

/-- The host's two writes overwrite a frame (20_memory.md R51, R55). -/
theorem hostWrite_frame_of_ready {s : State F} {n : Nat} (hs : Ready s) (hn : n < Config.NMAX) (y : F × F) :
    (andThen (hostWrite (bufAddr 0 n) y.1 s) fun u => hostWrite (bufAddr 1 n) y.2 u) = .next (s.setBuf (putFrame s.buf n y)) := by
  have hready : Ready (s.setBuf (bufWrite s.buf (bufAddr 0 n) y.1)) := ⟨hs.built, hs.idle⟩
  rw [hostWrite_of_ready hs (bufAddr_lt Nat.zero_lt_two hn), andThen_next, hostWrite_of_ready hready (bufAddr_lt Nat.one_lt_two hn)]
  rfl

/-- Where `FRAME` completes, the host writes what it binds back into the frame. -/
theorem expandFrame_of_complete {s t : State F} {n : Nat} {y : F × F} (ht : Ready t) (hn : n < Config.NMAX)
    (h : Complete N (frameLines (.name "l") (.name "r") "lo" "ro") [("l", (frameAt s.buf n).1), ("r", (frameAt s.buf n).2)] s
      (Binds "lo" "ro" y) t) :
    ∃ c, expandFrame N (execIn N) n s = some (.next ((t.setBuf (putFrame t.buf n y)).withCmdPorts c)) := by
  obtain ⟨c, e, hlines, hlo, hro⟩ := h
  have hwrites := hostWrite_frame_of_ready (s := t.withCmdPorts c) ⟨ht.built, ht.idle⟩ hn y
  simp only [frameAt] at hlines
  exact ⟨c, by simp only [expandFrame, hlines, hlo, hro, hwrites]; rfl⟩

/-- The host reads a frame, issues `FRAME` and writes the results back: the chain on that frame, in place (R162). -/
theorem expandFrame_of_ready {q : ChainParams F} {s : State F} {n : Nat} (hs : Ready s) (hq : RunsWith q s) (hn : n < Config.NMAX) :
    ∃ c, expandFrame N (execIn N) n s = some (.next ((s.withChain (chainInPlace N q s.chainPart n)).withCmdPorts c)) :=
  expandFrame_of_complete (t := s.withChain (s.buf, _)) ⟨hs.built, hs.idle⟩ hn (complete_frameLines hs hq (frameAt s.buf n))

/-- The frames of the expansion, from frame `n` on, are the chain on each in turn. -/
theorem expandFrames_of_ready {q : ChainParams F} {s : State F} {k n : Nat} (hs : Ready s) (hq : RunsWith q s)
    (hfit : n + k ≤ Config.NMAX) :
    ∃ c, expandFrames N (execIn N) k n s =
      some (.next ((s.withChain ((List.range' n k).foldl (chainInPlace N q) s.chainPart)).withCmdPorts c)) := by
  induction k generalizing n s with
  | zero => exact ⟨s, by rw [List.range'_zero, List.foldl_nil, State.withChain_self]; rfl⟩
  | succ k ih =>
    obtain ⟨c, hframe⟩ := expandFrame_of_ready (N := N) hs hq (n := n) (by omega)
    obtain ⟨c', hrest⟩ := ih (n := n + 1) (s := (s.withChain (chainInPlace N q s.chainPart n)).withCmdPorts c) ⟨hs.built, hs.idle⟩
      ((hq.withChain _).withCmdPorts c) (by omega)
    exact ⟨c', by simp only [expandFrames, hframe, hrest]; rfl⟩

/-- The expansion completes and leaves the block as `PROC` would, but for the command ports. -/
theorem expandProc_of_ready {s : State F} {fs : F} (hs : Ready s) (hq : s.ctlIn = []) (hfit : s.len.toNat ≤ Config.NMAX)
    (hfs : s.fs = some fs) (hok : blockCutoffsOk N s.p fs = true) :
    ∃ c, expandProc N (execIn N) s.len.toNat s = some (.next ((afterProc N s fs).withCmdPorts c)) := by
  obtain ⟨c, e, hbegin, _⟩ := complete_beginLines hs hq hfs hok
  have hruns : RunsWith (blockParams N s.p fs) ((afterLatch s []).withCoefs (blockParams N s.p fs)) :=
    HasSnapshot.runsWith (s := afterLatch s []) (v := s.p) rfl fs
  obtain ⟨c', hframes⟩ := expandFrames_of_ready (N := N) (n := 0) (k := s.len.toNat)
    (s := ((afterLatch s []).withCoefs (blockParams N s.p fs)).withCmdPorts c) ⟨hs.built, rfl⟩ (hruns.withCmdPorts c) (by omega)
  refine ⟨c', ?_⟩
  simp only [expandProc, hbegin, hframes, ← List.range_eq_range']
  rfl

end Sys2Proof.Machine

namespace Sys2Proof

open Machine

/-- Settles O31: line by line the expansion does what `PROC`'s micro-steps do, and only the command ports tell the two apart. -/
theorem procEqualsItsExpansion : Obligations.ProcEqualsItsExpansion := by
  refine InAnyNumerics.intro fun F _ _ N s fs hbuilt hidle hquiet h0 hfit hfs hok => ?_
  obtain ⟨c, hexpand⟩ := expandProc_of_ready ⟨hbuilt, hidle⟩ hquiet hfit hfs hok
  exact ⟨_, _, execProcIn_quiet hquiet h0 hfit hfs hok, hexpand, rfl, rfl, rfl, rfl⟩

end Sys2Proof
end

section
/-! PROOFS. Blocks of frames (45_chain_commands.md R161 to R164): the two orders of the loops, a block in place as a run over its frames, a
block cut in two, and the first frame of the document's scenario (95_test_vectors.md section 1.1). -/

namespace Sys2Proof.Machine

variable {F : Type} {N : Numerics F} {q : ChainParams F}

/-! A block as a run over a list of frames. -/

theorem frameMajor_append (xs ys : List (F × F)) (z : ChainState F) :
    frameMajor N q (xs ++ ys) z =
      ((frameMajor N q xs z).1 ++ (frameMajor N q ys (frameMajor N q xs z).2).1, (frameMajor N q ys (frameMajor N q xs z).2).2) := by
  induction xs generalizing z with
  | nil => rfl
  | cons x xs ih => simp only [List.cons_append, frameMajor, ih]

/-- Stage by stage, a block's first frame is one frame of the chain and the rest starts from the filter states it leaves. -/
theorem stageMajor_cons (x : F × F) (xs : List (F × F)) (z : ChainState F) :
    stageMajor N q (x :: xs) z =
      ((chainFrame N q z x).1 :: (stageMajor N q xs (chainFrame N q z x).2).1, (stageMajor N q xs (chainFrame N q z x).2).2) := rfl

variable [Inhabited F] [DecidableEq F]

/-! A frame overwritten in the buffer (20_memory.md R52, R54). -/

theorem bufWf_putFrame {b : List (Nat × F)} {n : Nat} (hb : bufWf b = true) (hn : n < Config.NMAX) (y : F × F) :
    bufWf (putFrame b n y) = true :=
  bufWf_bufWrite (bufWf_bufWrite hb (bufAddr_lt Nat.zero_lt_two hn)) (bufAddr_lt Nat.one_lt_two hn)

theorem frameAt_putFrame_same {b : List (Nat × F)} {n : Nat} (hb : bufWf b = true) (hn : n < Config.NMAX) (y : F × F) :
    frameAt (putFrame b n y) n = y := by
  have hne : bufAddr 0 n ≠ bufAddr 1 n := fun h => Nat.zero_ne_one (bufAddr_inj hn hn Nat.zero_lt_two Nat.one_lt_two h).1
  have hb0 : bufWf (bufWrite b (bufAddr 0 n) y.1) = true := bufWf_bufWrite hb (bufAddr_lt Nat.zero_lt_two hn)
  simp only [frameAt, putFrame, bufRead_bufWrite_other hne, bufRead_bufWrite_same (lo := 0) hb, bufRead_bufWrite_same (lo := 0) hb0]

theorem bufRead_putFrame_other {b : List (Nat × F)} {n a : Nat} (h0 : a ≠ bufAddr 0 n) (h1 : a ≠ bufAddr 1 n) (y : F × F) :
    bufRead (putFrame b n y) a = bufRead b a :=
  (bufRead_bufWrite_other h1).trans (bufRead_bufWrite_other h0)

theorem frameAt_putFrame_other {b : List (Nat × F)} {n m : Nat} (hn : n < Config.NMAX) (hm : m < Config.NMAX) (hmn : m ≠ n) (y : F × F) :
    frameAt (putFrame b n y) m = frameAt b m := by
  have hne (c d : Nat) (hc : c < 2) (hd : d < 2) : bufAddr c m ≠ bufAddr d n := fun h => hmn (bufAddr_inj hm hn hc hd h).2
  have hword (c : Nat) (hc : c < 2) : bufRead (putFrame b n y) (bufAddr c m) = bufRead b (bufAddr c m) :=
    bufRead_putFrame_other (hne c 0 hc Nat.zero_lt_two) (hne c 1 hc Nat.one_lt_two) y
  exact Prod.ext (hword 0 Nat.zero_lt_two) (hword 1 Nat.one_lt_two)

/-- Frames processed in place: the run over them, as the buffer held them at the start, gives the filter states and what the buffer holds in
their places; every other frame stays. -/
theorem foldl_chainInPlace {ns : List Nat} {b : List (Nat × F)} (hb : bufWf b = true) (hnd : ns.Nodup) (hns : ∀ n ∈ ns, n < Config.NMAX)
    (z : ChainState F) :
    (ns.map (frameAt (ns.foldl (chainInPlace N q) (b, z)).1), (ns.foldl (chainInPlace N q) (b, z)).2) =
        frameMajor N q (ns.map (frameAt b)) z ∧
      ∀ m < Config.NMAX, m ∉ ns → frameAt (ns.foldl (chainInPlace N q) (b, z)).1 m = frameAt b m := by
  induction ns generalizing b z with
  | nil => exact ⟨rfl, fun _ _ _ => rfl⟩
  | cons n ns ih =>
    obtain ⟨hn, hns⟩ := List.forall_mem_cons.mp hns
    obtain ⟨hnotin, hnd⟩ := List.nodup_cons.mp hnd
    rcases hframe : chainFrame N q z (frameAt b n) with ⟨y, z'⟩
    have hother : ∀ m < Config.NMAX, m ≠ n → frameAt (putFrame b n y) m = frameAt b m :=
      fun m hm hmn => frameAt_putFrame_other hn hm hmn y
    have hinputs : ns.map (frameAt (putFrame b n y)) = ns.map (frameAt b) :=
      List.map_congr_left fun m hm => hother m (hns m hm) (ne_of_mem_of_not_mem hm hnotin)
    obtain ⟨hrun, hrest⟩ := ih (bufWf_putFrame hb hn y) hnd hns z'
    rw [hinputs] at hrun
    have hfirst := (hrest n hn hnotin).trans (frameAt_putFrame_same hb hn y)
    simp only [List.foldl_cons, List.map_cons, frameMajor, chainInPlace, hframe, ← hrun, hfirst]
    refine ⟨trivial, fun m hm hmem => ?_⟩
    obtain ⟨hmn, hmem⟩ := not_or.mp (mt List.mem_cons.mpr hmem)
    exact (hrest m hm hmem).trans (hother m hm hmn)

/-! `PROC` as such a run. -/

/-- The first `n` frames of the buffer. -/
def framesOf (b : List (Nat × F)) (n : Nat) : List (F × F) := (List.range n).map (frameAt b)

omit [DecidableEq F] in
theorem framesOf_add (b : List (Nat × F)) (j k : Nat) :
    framesOf b (j + k) = framesOf b j ++ (List.range k).map fun n => frameAt b (j + n) := by
  simp only [framesOf, List.range_add, List.map_append, List.map_map]
  rfl

omit [DecidableEq F] in
theorem framesOf_length (b : List (Nat × F)) (n : Nat) : (framesOf b n).length = n := by
  simp [framesOf]

/-- A `PROC` that completes with nothing pending, of an empty block too, leaves in the buffer and the filter states the run of the chain over
its frames. -/
theorem execProcIn_quiet_frames {s t : State F} {fs : F} {n : Nat} (hq : s.ctlIn = []) (hb : bufWf s.buf = true) (hfs : s.fs = some fs)
    (hn : s.len.toNat = n) (h : execProcIn N s = .next t) :
    (framesOf t.buf n, chainStateOf t.z) = frameMajor N (blockParams N s.p fs) (framesOf s.buf n) (chainStateOf s.z) := by
  subst hn
  rcases execProcIn_eq_next.mp h with ⟨h0, rfl⟩ | ⟨h0, hfit, _, _⟩
  · simp [h0, framesOf, frameMajor]
  · obtain rfl := eq_afterProc_of_quiet hq hfs h0 h
    exact (foldl_chainInPlace hb List.nodup_range (fun n hn => Nat.lt_of_lt_of_le (List.mem_range.mp hn) hfit) _).1

omit [DecidableEq F] in
/-- A block of `j + k` frames, and the same frames as a block of `j` and a block of `k` that starts from the filter states of the first. -/
theorem framesOf_split {b bw b₁ b₂ : List (Nat × F)} {z zw z₁ z₂ : ChainState F} {j k : Nat}
    (hwhole : (framesOf bw (j + k), zw) = frameMajor N q (framesOf b (j + k)) z)
    (hfirst : (framesOf b₁ j, z₁) = frameMajor N q (framesOf b j) z)
    (hsecond : (framesOf b₂ k, z₂) = frameMajor N q ((List.range k).map fun n => frameAt b (j + n)) z₁) :
    framesOf bw j = framesOf b₁ j ∧ ((List.range k).map fun n => frameAt bw (j + n)) = framesOf b₂ k ∧ zw = z₂ := by
  rw [framesOf_add b, frameMajor_append, ← hfirst, ← hsecond, framesOf_add bw, Prod.mk.injEq] at hwhole
  obtain ⟨hframes, hz⟩ := hwhole
  obtain ⟨hj, hk⟩ := List.append_inj hframes (by simp only [framesOf_length])
  exact ⟨hj, hk, hz⟩

omit [Inhabited F] [DecidableEq F] in
theorem chainStateOf_injective {z z' : Vector (ZPair F) 3} (h : chainStateOf z = chainStateOf z') : z = z' := by
  rw [← zOf_chainStateOf z, h, zOf_chainStateOf]

/-! One frame over the reals. -/

/-- A stage in zero state passes `b0` times its first sample on (40_biquad.md R101). -/
theorem biquadStep_real_zero_state (c : Coef ℝ) (x : ℝ) : (biquadStep Numerics.real c ⟨0, 0⟩ x).1 = c.b0 * x := by
  simp [biquadStep_real]

/-- Silence leaves a stage in zero state. -/
theorem biquadStep_real_silence (c : Coef ℝ) : biquadStep Numerics.real c ⟨0, 0⟩ 0 = (0, ⟨0, 0⟩) := by
  simp [biquadStep_real]

/-- From zero state a unit of side signal alone comes out of the two side stages as the product of their `b0`. -/
theorem chainStages_real_side (q : ChainParams ℝ) :
    chainStages Numerics.real q ⟨⟨0, 0⟩, ⟨0, 0⟩, ⟨0, 0⟩⟩ 0 1 =
      ((0, q.side.b0 * q.high.b0),
        ⟨⟨0, 0⟩, (biquadStep Numerics.real q.high ⟨0, 0⟩ 1).2, (biquadStep Numerics.real q.side ⟨0, 0⟩ q.high.b0).2⟩) := by
  simp only [chainStages, biquadStep_real_silence, biquadStep_real_zero_state, mul_one]

/-- Side signal alone comes out with opposite signs in the two channels. -/
theorem chainOutput_real_side (q : ChainParams ℝ) (d : ℝ) :
    chainOutput Numerics.real q 0 d =
      (saturate Numerics.real q.sat (d * makeUpGain Numerics.real q.makeUp),
        saturate Numerics.real q.sat (-(d * makeUpGain Numerics.real q.makeUp))) := by
  simp only [chainOutput, midSideDecode_real, zero_add, zero_sub, neg_mul]

end Sys2Proof.Machine

namespace Sys2Proof

open Machine

/-- Settles O33, by induction on the frames. -/
theorem loopOrderIsIrrelevant : Obligations.LoopOrderIsIrrelevant := by
  unfold Obligations.LoopOrderIsIrrelevant
  intro F N q xs z
  induction xs generalizing z with
  | nil => rfl
  | cons x xs ih => simp only [frameMajor, stageMajor_cons, ih]

/-- Settles O32: each of the three blocks is a run over its frames, and the run over the whole block's frames is one over the first part's
and then one over the second's. -/
theorem blockSplitsAnywhere : Obligations.BlockSplitsAnywhere := by
  refine InAnyNumerics.intro fun F _ _ N s s₁ s₂ whole first second fs j hquiet hwf hfs hj _ hwhole hs₁ hfirst hquiet₂ hwf₂ hfs₂ hp₂ hz₂
    hlen hframes hsecond => ?_
  obtain ⟨k, hk⟩ := Nat.exists_eq_add_of_le hj
  have hsub : s.len.toNat - j = k := by omega
  rw [hsub] at hlen hframes ⊢
  have hlt := s.len.isLt
  have hlen₁ : s₁.len.toNat = j := by rw [hs₁, BitVec.toNat_ofNat, Nat.mod_eq_of_lt (by omega)]
  have hlen₂ : s₂.len.toNat = k := by rw [hlen, BitVec.toNat_ofNat, Nat.mod_eq_of_lt (by omega)]
  have hinputs : framesOf s₂.buf k = (List.range k).map fun n => frameAt s.buf (j + n) :=
    List.map_congr_left fun n hn => hframes n (List.mem_range.mp hn)
  have hrun := execProcIn_quiet_frames hquiet hwf hfs hk hwhole
  subst hs₁
  have hrun₁ := execProcIn_quiet_frames (s := { s with len := BitVec.ofNat 32 j }) hquiet hwf hfs hlen₁ hfirst
  have hrun₂ := execProcIn_quiet_frames hquiet₂ hwf₂ (hfs₂.trans hfs) hlen₂ hsecond
  rw [hp₂, hz₂, hinputs] at hrun₂
  obtain ⟨hpart₁, hpart₂, hz⟩ := framesOf_split hrun hrun₁ hrun₂
  refine ⟨fun n hn => List.map_inj_left.mp hpart₁ n (List.mem_range.mpr hn),
    fun n hn => List.map_inj_left.mp hpart₂ n (List.mem_range.mpr hn), chainStateOf_injective hz, fun hjk => ?_⟩
  have h0 : s.len ≠ 0#32 := fun h => by simp [h] at hjk
  have h0₂ : s₂.len ≠ 0#32 := fun h => by simp [h] at hlen₂; omega
  rw [eq_afterProc_of_quiet hquiet hfs h0 hwhole, eq_afterProc_of_quiet hquiet₂ (hfs₂.trans hfs) h0₂ hsecond]
  simp only [afterProc, hp₂, and_self]

/-- Settles O58: the frame encodes to side signal alone, so the mid shelf stays silent whatever its coefficients, and the saturator is
odd. -/
theorem endToEndFirstFrame : Obligations.EndToEndFirstFrame := by
  unfold Obligations.EndToEndFirstFrame
  intro q _ r s2
  have hencode : midSideEncode Numerics.real 1 (-1) = (0, 1) := by norm_num [midSideEncode_real]
  have hr : r = (chainOutput Numerics.real q 0 s2, (chainStages Numerics.real q ⟨⟨0, 0⟩, ⟨0, 0⟩, ⟨0, 0⟩⟩ 0 1).2) := by
    simp only [r, s2, chainFrame_eq, hencode, chainStages_real_side]
  obtain ⟨_, hodd, _⟩ := saturatorIsOddAndHasNoDryPath q.sat (s2 * makeUpGain Numerics.real q.makeUp)
  rw [hr, chainOutput_real_side, chainStages_real_side]
  exact ⟨hencode, rfl, hodd, rfl⟩

end Sys2Proof
end

section
/-! PROOFS. What a configured chain is good for (70_reset_and_hazards.md R194, R198): a command that reads registers completes exactly when
they are written and legal, and a legal cutoff gives both calculators stable poles. -/

namespace Sys2Proof.Machine

variable {F : Type} {N : Numerics F}

/-! When a command completes (R194; 60_exceptions.md R172). -/

theorem exec_cls (a : BitVec 4) (s : State) : exec (.cls a) s = execClsIn Config.num a s := rfl

theorem exec_chp (s : State) : exec .chp s = calcHighPass Config.num s := rfl

theorem execDecIn_completes_iff {s : State F} : (∃ t, execDecIn N s = .next t) ↔ s.act[10].isSome = true := by
  rw [Option.isSome_iff_exists]
  constructor
  · rintro ⟨t, h⟩
    obtain ⟨dB, hdB, _⟩ := execDecIn_eq_next.mp h
    exact ⟨dB, hdB⟩
  · rintro ⟨dB, hdB⟩
    exact ⟨_, execDecIn_of_written hdB⟩

theorem exists_readSatParams_iff {s : State F} :
    (∃ q, readSatParams s = .next q) ↔ ∀ i : Fin 11, 5 ≤ i.val → i.val ≤ 9 → s.act[i].isSome = true := by
  constructor
  · rintro ⟨q, hq⟩ i h5 h9
    exact Option.isSome_iff_exists.mpr (act_written_of_readSatParams hq h5 h9)
  · intro h
    have hwritten (i : Fin 11) (h5 : 5 ≤ i.val) (h9 : i.val ≤ 9) : ∃ v, s.act[i] = some v :=
      Option.isSome_iff_exists.mp (h i h5 h9)
    obtain ⟨a, ha⟩ := hwritten 5 (by decide) (by decide)
    obtain ⟨k, hk⟩ := hwritten 6 (by decide) (by decide)
    obtain ⟨m, hm⟩ := hwritten 7 (by decide) (by decide)
    obtain ⟨b, hb⟩ := hwritten 8 (by decide) (by decide)
    obtain ⟨f, hf⟩ := hwritten 9 (by decide) (by decide)
    exact ⟨⟨a, k, m, b, f⟩, readSatParams_eq_next.mpr ⟨ha, hk, hm, hb, hf⟩⟩

theorem execSatIn_completes_iff {s : State F} :
    (∃ t, execSatIn N s = .next t) ↔ ∀ i : Fin 11, 5 ≤ i.val → i.val ≤ 9 → s.act[i].isSome = true := by
  rw [← exists_readSatParams_iff]
  constructor
  · rintro ⟨t, h⟩
    obtain ⟨q, hq, _⟩ := execSatIn_eq_next.mp h
    exact ⟨q, hq⟩
  · rintro ⟨q, hq⟩
    exact ⟨_, execSatIn_of_written hq⟩

theorem execBqIn_completes_iff {k : Fin 3} {s : State F} :
    (∃ t, execBqIn N (BitVec.ofNat 4 k.val) s = .next t) ↔ s.coef[k].isSome = true := by
  cases hc : s.coef[k] with
  | none => simp [execBqIn_of_unwritten hc]
  | some c => exact ⟨fun _ => rfl, fun _ => ⟨_, execBqIn_of_written hc s.opa⟩⟩

theorem calcShelf_completes_iff {k : Shelf} {s : State F} :
    (∃ t, calcShelf N k s = .next t) ↔
      ∃ fs f, s.fs = some fs ∧ s.act[shelfGain k].isSome = true ∧ s.act[shelfFreq k] = some f ∧ cutoffOk N f fs = true := by
  constructor
  · rintro ⟨t, h⟩
    obtain ⟨fs, G, f, hfs, hG, hf, hok, _⟩ := calcShelf_eq_next.mp h
    exact ⟨fs, f, hfs, Option.isSome_iff_exists.mpr ⟨G, hG⟩, hf, hok⟩
  · rintro ⟨fs, f, hfs, hgain, hf, hok⟩
    obtain ⟨G, hG⟩ := Option.isSome_iff_exists.mp hgain
    exact ⟨_, calcShelf_eq_next.mpr ⟨fs, G, f, hfs, hG, hf, hok, rfl⟩⟩

theorem calcHighPass_completes_iff {s : State F} :
    (∃ t, calcHighPass N s = .next t) ↔ ∃ fs f, s.fs = some fs ∧ s.act[highPassFreq] = some f ∧ cutoffOk N f fs = true := by
  constructor
  · rintro ⟨t, h⟩
    obtain ⟨fs, f, hfs, hf, hok, _⟩ := calcHighPass_eq_next.mp h
    exact ⟨fs, f, hfs, hf, hok⟩
  · rintro ⟨fs, f, hfs, hf, hok⟩
    exact ⟨_, calcHighPass_eq_next.mpr ⟨fs, f, hfs, hf, hok, rfl⟩⟩

/-! Stable poles (R198; 91_not_in_source.md N24). -/

/-- Jury's conditions on the raw denominator `a0 + a1 z^-1 + a2 z^-2`, whose leading coefficient need not be 1: its values at `z = 1` and
`z = -1`, and the product of its zeros below 1. -/
structure StableDenominator (r : Coef ℝ) : Prop where
  atOne : 0 < r.a0 + r.a1 + r.a2
  atNegOne : 0 < r.a0 - r.a1 + r.a2
  lastLtFirst : r.a2 < r.a0

/-- The two values add up to `2 * (a0 + a2)`, and `a2` is the smaller of the two summands. -/
theorem StableDenominator.a0_pos {r : Coef ℝ} (h : StableDenominator r) : 0 < r.a0 := by
  linarith [h.atOne, h.atNegOne, h.lastLtFirst]

theorem StableDenominator.abs_a2_lt {r : Coef ℝ} (h : StableDenominator r) : |r.a2| < r.a0 :=
  abs_lt.mpr ⟨by linarith [h.atOne, h.atNegOne], h.lastLtFirst⟩

theorem StableDenominator.abs_a1_lt {r : Coef ℝ} (h : StableDenominator r) : |r.a1| < r.a0 + r.a2 :=
  abs_lt.mpr ⟨by linarith [h.atOne], by linarith [h.atNegOne]⟩

/-- Dividing by the positive `a0` turns both bounds into those on the stored coefficients. -/
theorem StableDenominator.normalised_bounds {r : Coef ℝ} (h : StableDenominator r) :
    |(normalise Numerics.real r).a2| < 1 ∧ |(normalise Numerics.real r).a1| < 1 + (normalise Numerics.real r).a2 := by
  have ha0 := h.a0_pos
  have hsum : 1 + r.a2 / r.a0 = (r.a0 + r.a2) / r.a0 := by rw [add_div, div_self ha0.ne']
  rw [normalise_real]
  constructor
  · rw [abs_div, abs_of_pos ha0, div_lt_one ha0]
    exact h.abs_a2_lt
  · rw [abs_div, abs_of_pos ha0, hsum]
    exact div_lt_div_of_pos_right h.abs_a1_lt ha0

/-- `a0` and `a2` differ by the term in `alpha` alone. -/
theorem lowShelf_stable {A c α : ℝ} (hA : 0 < A) (hc : |c| < 1) (hα : 0 < α) : StableDenominator (lowShelf A c α) := by
  obtain ⟨hlo, hhi⟩ := abs_lt.mp hc
  obtain ⟨_, hone, _, hnegOne⟩ := lowShelf_sums A c α
  have hroot : 0 < 2 * Real.sqrt A * α := by positivity
  refine ⟨?_, ?_, ?_⟩
  · rw [hone]
    linarith
  · rw [hnegOne]
    exact mul_pos (by positivity) (by linarith)
  · simp only [lowShelf]
    linarith

/-- `a0` and `a2` are 1 with `alpha` added and taken away. -/
theorem highPass_stable {c α : ℝ} (hc : |c| < 1) (hα : 0 < α) : StableDenominator (highPass c α) := by
  obtain ⟨hlo, hhi⟩ := abs_lt.mp hc
  simp only [highPass]
  constructor <;> linarith

end Sys2Proof.Machine

namespace Sys2Proof

open Machine

/-- Settles O22: each command by its own criterion, `CLS k` being the calculator of its shelf. -/
theorem acceptedExactlyWhenWritten : Obligations.AcceptedExactlyWhenWritten := by
  unfold Obligations.AcceptedExactlyWhenWritten
  intro s
  refine ⟨?_, ?_, fun k => ?_, fun k => ?_, ?_⟩
  · rw [exec_dec]
    exact execDecIn_completes_iff
  · rw [exec_sat]
    exact execSatIn_completes_iff
  · rw [exec_bq]
    exact execBqIn_completes_iff
  · rw [exec_cls, execClsIn_shelfStage]
    exact calcShelf_completes_iff
  · rw [exec_chp]
    exact calcHighPass_completes_iff

/-- Settles O52: a legal cutoff makes both raw denominators meet Jury's conditions, and normalising turns these into the two bounds. -/
theorem polesLieInsideTheUnitCircle : Obligations.PolesLieInsideTheUnitCircle := by
  unfold Obligations.PolesLieInsideTheUnitCircle
  intro G f fs hfs hf hhalf
  have hc := abs_cos_omega_lt_one hfs hf hhalf
  have hα := alphaOf_omega_pos hfs hf hhalf
  have hshelf : StableDenominator (shelfRaw Numerics.real G f fs) :=
    shelfRaw_real G f fs ▸ lowShelf_stable (shelfAmplitude_real_pos G) hc hα
  have hhighPass : StableDenominator (highPassRaw Numerics.real f fs) :=
    highPassRaw_real f fs ▸ highPass_stable hc hα
  obtain ⟨hshelf2, hshelf1⟩ := hshelf.normalised_bounds
  obtain ⟨hhigh2, hhigh1⟩ := hhighPass.normalised_bounds
  exact ⟨hshelf2, hshelf1, hhigh2, hhigh1⟩

end Sys2Proof
end
